-- ==== Sys2Proof/Word.lean ====
section
/-! DEFINITION. The widths the spec gives its values (R7, R8, R11, R20 to R23), and nothing else. -/

namespace Sys2Proof

/-- A byte of memory, a general register, a timer (R20, R26, R27, R30). -/
abbrev Byte := BitVec 8

/-- An opcode word, `I`, `PC`, a stack slot (R22, R23, R25, R90). -/
abbrev Word := BitVec 16

/-- The 12-bit address field NNN (R11). -/
abbrev Addr := BitVec 12

/-- A 4-bit field: the count N (R11). -/
abbrev Nibble := BitVec 4

/-- A 4-bit register number, X or Y (R11, R20). Its type has 16 values, so the spec's
InvalidRegister has no case here (R237). -/
abbrev RegIdx := BitVec 4

/-- The same 16 numbers name the keys 0x0 to 0xF (R29). -/
abbrev KeyIdx := BitVec 4

/-- Every 4-bit number is an index below 16 (R237). -/
theorem RegIdx.lt16 (r : RegIdx) : r.toNat < 16 := r.isLt

end Sys2Proof
end

