-- ==== Sys2Proof/Config.lean ====
section
/-! DEFINITION. The fixed parameters of R5, the open parameters of R6, and the one free value
(the random byte of R151). -/

namespace Sys2Proof

/-- The parameter `UNKNOWN_OPCODE_POLICY` of R6 and R236. -/
inductive UnknownOpcodePolicy where
  /-- A word that is no instruction is a no-op that advances PC (the spec's default). -/
  | skip
  /-- A word that is no instruction is a Fatal fault. -/
  | halt
deriving DecidableEq, Repr

/-- The two open parameters of R6 that are fixed for one machine. A machine carries its own
`Config` in its state (assumption 1), so a statement about every state holds for every font and
for both policies. -/
structure Config where
  /-- `FONT`: the 80 bytes at 0x050 to 0x09F after reset (R37). -/
  font : Vector Byte 80
  /-- `UNKNOWN_OPCODE_POLICY` (R236). -/
  unknownOpcodePolicy : UnknownOpcodePolicy
deriving DecidableEq, Repr

/-- `MEM_SIZE` (R5). -/
abbrev Config.memSize : Nat := 4096
/-- `PROG_BASE` (R5). -/
abbrev Config.progBase : Nat := 0x200
/-- `FONT_BASE` (R5). -/
abbrev Config.fontBase : Nat := 0x050
/-- `GLYPH_BYTES` (R5). -/
abbrev Config.glyphBytes : Nat := 5
/-- `STACK_DEPTH` (R5). -/
abbrev Config.stackDepth : Nat := 16
/-- `FB_W` (R5). -/
abbrev Config.fbWidth : Nat := 64
/-- `FB_H` (R5). -/
abbrev Config.fbHeight : Nat := 32
/-- `ROM_MAX` (R5). -/
abbrev Config.romMax : Nat := 3584

/-- The random byte `rnd` of R151: one free value for each draw, numbered by the state's counter
`draws`. It has no body, so nothing can be proved of any of its values (assumption 2). -/
opaque Config.freeRnd : Nat → Byte

end Sys2Proof
end

