-- ==== Sys2Proof/Syntax.lean ====
section
/-! DEFINITION. The 34 instructions of R95, one constructor for each row of
spec/opcode_table.json, in the table's order. Fields are X, Y, N, KK, NNN of R11 at their own
widths (R92). -/

namespace Sys2Proof

/-- One instruction of R95. -/
inductive Instr where
  /-- 00E0 `CLS` (R190). -/
  | cls
  /-- 00EE `RET` (R120). -/
  | ret
  /-- 1NNN `JP addr` (R121). -/
  | jp (nnn : Addr)
  /-- 2NNN `CALL addr` (R122). -/
  | call (nnn : Addr)
  /-- 3XKK `SE Vx, byte` (R123). -/
  | seImm (x : RegIdx) (kk : Byte)
  /-- 4XKK `SNE Vx, byte` (R124). -/
  | sneImm (x : RegIdx) (kk : Byte)
  /-- 5XY0 `SE Vx, Vy` (R125). -/
  | seReg (x y : RegIdx)
  /-- 6XKK `LD Vx, byte` (R140). -/
  | ldImm (x : RegIdx) (kk : Byte)
  /-- 7XKK `ADD Vx, byte` (R141). -/
  | addImm (x : RegIdx) (kk : Byte)
  /-- 8XY0 `LD Vx, Vy` (R142). -/
  | ldReg (x y : RegIdx)
  /-- 8XY1 `OR Vx, Vy` (R143). -/
  | orReg (x y : RegIdx)
  /-- 8XY2 `AND Vx, Vy` (R144). -/
  | andReg (x y : RegIdx)
  /-- 8XY3 `XOR Vx, Vy` (R145). -/
  | xorReg (x y : RegIdx)
  /-- 8XY4 `ADD Vx, Vy` (R146). -/
  | addReg (x y : RegIdx)
  /-- 8XY5 `SUB Vx, Vy` (R147). -/
  | subReg (x y : RegIdx)
  /-- 8XY6 `SHR Vx {, Vy}` (R148); Y is encoded and ignored. -/
  | shrReg (x y : RegIdx)
  /-- 8XY7 `SUBN Vx, Vy` (R149). -/
  | subnReg (x y : RegIdx)
  /-- 8XYE `SHL Vx {, Vy}` (R150); Y is encoded and ignored. -/
  | shlReg (x y : RegIdx)
  /-- 9XY0 `SNE Vx, Vy` (R126). -/
  | sneReg (x y : RegIdx)
  /-- ANNN `LD I, addr` (R170). -/
  | ldI (nnn : Addr)
  /-- BNNN `JP V0, addr` (R127). -/
  | jpV0 (nnn : Addr)
  /-- CXKK `RND Vx, byte` (R151). -/
  | rnd (x : RegIdx) (kk : Byte)
  /-- DXYN `DRW Vx, Vy, nibble` (R191). -/
  | drw (x y : RegIdx) (n : Nibble)
  /-- EX9E `SKP Vx` (R210). -/
  | skp (x : RegIdx)
  /-- EXA1 `SKNP Vx` (R211). -/
  | sknp (x : RegIdx)
  /-- FX07 `LD Vx, DT` (R213). -/
  | ldVxDt (x : RegIdx)
  /-- FX0A `LD Vx, K` (R212). -/
  | ldVxK (x : RegIdx)
  /-- FX15 `LD DT, Vx` (R214). -/
  | ldDtVx (x : RegIdx)
  /-- FX18 `LD ST, Vx` (R215). -/
  | ldStVx (x : RegIdx)
  /-- FX1E `ADD I, Vx` (R171). -/
  | addI (x : RegIdx)
  /-- FX29 `LD F, Vx` (R172). -/
  | ldF (x : RegIdx)
  /-- FX33 `LD B, Vx` (R173). -/
  | ldB (x : RegIdx)
  /-- FX55 `LD [I], Vx` (R174). -/
  | storeRegs (x : RegIdx)
  /-- FX65 `LD Vx, [I]` (R175). -/
  | loadRegs (x : RegIdx)
deriving DecidableEq, Repr

end Sys2Proof
end

