-- ==== Sys2Proof/WellFormed.lean ====
section
/-! DEFINITION. The six formats of R91 with their fields as plain numbers, as an assembler line
gives them (R100), and the check that each field is one the format admits. A term of `Instr`
cannot be ill-formed: its fields have their exact widths. A term of `Fields` can. -/

namespace Sys2Proof

/-- The fields of one instruction word in its format (R91), before any range check. -/
inductive Fields where
  /-- Format FIXED. -/
  | fixed (op : Nat)
  /-- Format NNN. -/
  | addr (major nnn : Nat)
  /-- Format XKK. -/
  | regByte (major x kk : Nat)
  /-- Format XY. -/
  | regReg (major x y funct4 : Nat)
  /-- Format XYN. -/
  | regRegNibble (major x y n : Nat)
  /-- Format X. -/
  | reg (major x funct8 : Nat)
deriving DecidableEq, Repr

/-- Every fixed number is one that R91 lists for the format, and every operand is in its range:
"A number out of range for its field is an assembly error, not a truncation" (R100), and function
fields are matched exactly (R96). -/
def Fields.wf : Fields → Bool
  | .fixed op => op == 0x00E0 || op == 0x00EE
  | .addr major nnn => [0x1, 0x2, 0xA, 0xB].contains major && decide (nnn < 4096)
  | .regByte major x kk =>
      [0x3, 0x4, 0x6, 0x7, 0xC].contains major && decide (x < 16) && decide (kk < 256)
  | .regReg major x y funct4 =>
      ((major == 0x5 || major == 0x9) && funct4 == 0 ||
        major == 0x8 && [0x0, 0x1, 0x2, 0x3, 0x4, 0x5, 0x6, 0x7, 0xE].contains funct4) &&
      decide (x < 16) && decide (y < 16)
  | .regRegNibble major x y n =>
      major == 0xD && decide (x < 16) && decide (y < 16) && decide (n < 16)
  | .reg major x funct8 =>
      (major == 0xE && [0x9E, 0xA1].contains funct8 ||
        major == 0xF &&
          [0x07, 0x0A, 0x15, 0x18, 0x1E, 0x29, 0x33, 0x55, 0x65].contains funct8) &&
      decide (x < 16)

end Sys2Proof
end

