-- ==== Sys2Proof/Decode.lean ====
section
/-! DEFINITION. The decoder (R90 to R98), total on every word and on every byte sequence, and the
encoder, written from the same tables. -/

namespace Sys2Proof

/-- The field X (R11). -/
def fieldX (op : Word) : RegIdx := op.extractLsb' 8 4
/-- The field Y (R11). -/
def fieldY (op : Word) : RegIdx := op.extractLsb' 4 4
/-- The field N (R11); in format XY it is funct4 (R91). -/
def fieldN (op : Word) : Nibble := op.extractLsb' 0 4
/-- The field KK (R11); in format X it is funct8 (R91). -/
def fieldKK (op : Word) : Byte := op.extractLsb' 0 8
/-- The field NNN (R11). -/
def fieldNNN (op : Word) : Addr := op.extractLsb' 0 12
/-- The major opcode (R11). -/
def fieldMajor (op : Word) : Nibble := op.extractLsb' 12 4

/-- What a 16-bit word selects: an instruction of R95, or by name the unknown opcode of R97. -/
inductive Decoded where
  | instr (i : Instr)
  | unknownOpcode (op : Word)
deriving DecidableEq, Repr

/-- Major 0x0: two words only (R94); every other 0NNN is unknown (R98). -/
def decodeMajor0 (op : Word) : Decoded :=
  if op = 0x00E0#16 then .instr .cls
  else if op = 0x00EE#16 then .instr .ret
  else .unknownOpcode op

/-- Major 0x8, selected by `op[3:0]` (R94, R96). -/
def decodeMajor8 (op : Word) : Decoded :=
  match (fieldN op).toNat with
  | 0x0 => .instr (.ldReg (fieldX op) (fieldY op))
  | 0x1 => .instr (.orReg (fieldX op) (fieldY op))
  | 0x2 => .instr (.andReg (fieldX op) (fieldY op))
  | 0x3 => .instr (.xorReg (fieldX op) (fieldY op))
  | 0x4 => .instr (.addReg (fieldX op) (fieldY op))
  | 0x5 => .instr (.subReg (fieldX op) (fieldY op))
  | 0x6 => .instr (.shrReg (fieldX op) (fieldY op))
  | 0x7 => .instr (.subnReg (fieldX op) (fieldY op))
  | 0xE => .instr (.shlReg (fieldX op) (fieldY op))
  | _ => .unknownOpcode op

/-- Major 0xE, selected by `op[7:0]` (R94, R96). -/
def decodeMajorE (op : Word) : Decoded :=
  match (fieldKK op).toNat with
  | 0x9E => .instr (.skp (fieldX op))
  | 0xA1 => .instr (.sknp (fieldX op))
  | _ => .unknownOpcode op

/-- Major 0xF, selected by `op[7:0]` (R94, R96). -/
def decodeMajorF (op : Word) : Decoded :=
  match (fieldKK op).toNat with
  | 0x07 => .instr (.ldVxDt (fieldX op))
  | 0x0A => .instr (.ldVxK (fieldX op))
  | 0x15 => .instr (.ldDtVx (fieldX op))
  | 0x18 => .instr (.ldStVx (fieldX op))
  | 0x1E => .instr (.addI (fieldX op))
  | 0x29 => .instr (.ldF (fieldX op))
  | 0x33 => .instr (.ldB (fieldX op))
  | 0x55 => .instr (.storeRegs (fieldX op))
  | 0x65 => .instr (.loadRegs (fieldX op))
  | _ => .unknownOpcode op

/-- The decoder: the opcode map by major opcode of R94. It depends on the word alone (R93). -/
def decode (op : Word) : Decoded :=
  match (fieldMajor op).toNat with
  | 0x0 => decodeMajor0 op
  | 0x1 => .instr (.jp (fieldNNN op))
  | 0x2 => .instr (.call (fieldNNN op))
  | 0x3 => .instr (.seImm (fieldX op) (fieldKK op))
  | 0x4 => .instr (.sneImm (fieldX op) (fieldKK op))
  | 0x5 => if fieldN op = 0#4 then .instr (.seReg (fieldX op) (fieldY op)) else .unknownOpcode op
  | 0x6 => .instr (.ldImm (fieldX op) (fieldKK op))
  | 0x7 => .instr (.addImm (fieldX op) (fieldKK op))
  | 0x8 => decodeMajor8 op
  | 0x9 => if fieldN op = 0#4 then .instr (.sneReg (fieldX op) (fieldY op)) else .unknownOpcode op
  | 0xA => .instr (.ldI (fieldNNN op))
  | 0xB => .instr (.jpV0 (fieldNNN op))
  | 0xC => .instr (.rnd (fieldX op) (fieldKK op))
  | 0xD => .instr (.drw (fieldX op) (fieldY op) (fieldN op))
  | 0xE => decodeMajorE op
  | 0xF => decodeMajorF op
  | _ => .unknownOpcode op

/-- Two bytes read as a word, the byte at the lower address in `op[15:8]` (R62). -/
def wordOfBytes (hi lo : Byte) : Word := hi ++ lo

/-- The byte of a word that stands at the lower address (R62). -/
def highByte (op : Word) : Byte := op.extractLsb' 8 8

/-- The byte of a word that stands at the higher address (R62). -/
def lowByte (op : Word) : Byte := op.extractLsb' 0 8

/-- What the front of a byte sequence holds. -/
inductive DecodedBytes where
  | instr (i : Instr) (rest : List Byte)
  | unknownOpcode (op : Word) (rest : List Byte)
  /-- Fewer than the two bytes of R90. -/
  | truncated
deriving DecidableEq, Repr

/-- Decoding a byte sequence: the first two bytes, big-endian (R62, R90). -/
def decodeBytes : List Byte → DecodedBytes
  | hi :: lo :: rest =>
    match decode (wordOfBytes hi lo) with
    | .instr i => .instr i rest
    | .unknownOpcode op => .unknownOpcode op rest
  | _ => .truncated

/-- The word of a table row: bit 0 is the least significant bit of the opcode (R91), and every
bit above `nbits` is 0. -/
def tableWord (nbits w : Nat) : Word := BitVec.ofNat 16 (w % 2 ^ nbits)

/-- The instruction the decoder reads from a table word laid out as the hardware stores it. -/
def decodeTableWord (nbits w : Nat) : Option Instr :=
  match decodeBytes [highByte (tableWord nbits w), lowByte (tableWord nbits w)] with
  | .instr i _ => some i
  | .unknownOpcode _ _ => none
  | .truncated => none

/-- The format, the fixed numbers and the operands of an instruction (R91, R95). -/
def Instr.fields : Instr → Fields
  | .cls => .fixed 0x00E0
  | .ret => .fixed 0x00EE
  | .jp nnn => .addr 0x1 nnn.toNat
  | .call nnn => .addr 0x2 nnn.toNat
  | .seImm x kk => .regByte 0x3 x.toNat kk.toNat
  | .sneImm x kk => .regByte 0x4 x.toNat kk.toNat
  | .seReg x y => .regReg 0x5 x.toNat y.toNat 0x0
  | .ldImm x kk => .regByte 0x6 x.toNat kk.toNat
  | .addImm x kk => .regByte 0x7 x.toNat kk.toNat
  | .ldReg x y => .regReg 0x8 x.toNat y.toNat 0x0
  | .orReg x y => .regReg 0x8 x.toNat y.toNat 0x1
  | .andReg x y => .regReg 0x8 x.toNat y.toNat 0x2
  | .xorReg x y => .regReg 0x8 x.toNat y.toNat 0x3
  | .addReg x y => .regReg 0x8 x.toNat y.toNat 0x4
  | .subReg x y => .regReg 0x8 x.toNat y.toNat 0x5
  | .shrReg x y => .regReg 0x8 x.toNat y.toNat 0x6
  | .subnReg x y => .regReg 0x8 x.toNat y.toNat 0x7
  | .shlReg x y => .regReg 0x8 x.toNat y.toNat 0xE
  | .sneReg x y => .regReg 0x9 x.toNat y.toNat 0x0
  | .ldI nnn => .addr 0xA nnn.toNat
  | .jpV0 nnn => .addr 0xB nnn.toNat
  | .rnd x kk => .regByte 0xC x.toNat kk.toNat
  | .drw x y n => .regRegNibble 0xD x.toNat y.toNat n.toNat
  | .skp x => .reg 0xE x.toNat 0x9E
  | .sknp x => .reg 0xE x.toNat 0xA1
  | .ldVxDt x => .reg 0xF x.toNat 0x07
  | .ldVxK x => .reg 0xF x.toNat 0x0A
  | .ldDtVx x => .reg 0xF x.toNat 0x15
  | .ldStVx x => .reg 0xF x.toNat 0x18
  | .addI x => .reg 0xF x.toNat 0x1E
  | .ldF x => .reg 0xF x.toNat 0x29
  | .ldB x => .reg 0xF x.toNat 0x33
  | .storeRegs x => .reg 0xF x.toNat 0x55
  | .loadRegs x => .reg 0xF x.toNat 0x65

/-- The number that a format's fields make, each at its bit position (R91). -/
def Fields.number : Fields → Nat
  | .fixed op => op
  | .addr major nnn => major * 4096 + nnn
  | .regByte major x kk => major * 4096 + x * 256 + kk
  | .regReg major x y funct4 => major * 4096 + x * 256 + y * 16 + funct4
  | .regRegNibble major x y n => major * 4096 + x * 256 + y * 16 + n
  | .reg major x funct8 => major * 4096 + x * 256 + funct8

/-- The instruction is well-formed: its fields pass the format's check. -/
def Instr.wf (i : Instr) : Bool := i.fields.wf

/-- The encoder: the word of an instruction (R91, R95). -/
def encode (i : Instr) : Word := BitVec.ofNat 16 i.fields.number

/-- A row of R95 as the table prints it: a word selects the row when `op AND mask = value`. -/
structure OpcodeRow where
  mnemonic : String
  mask : Word
  value : Word
deriving DecidableEq, Repr

/-- R95, rows 1 to 17. -/
def opcodeRowsA : List OpcodeRow := [
  ⟨"CLS", 0xFFFF, 0x00E0⟩, ⟨"RET", 0xFFFF, 0x00EE⟩, ⟨"JP_addr", 0xF000, 0x1000⟩,
  ⟨"CALL_addr", 0xF000, 0x2000⟩, ⟨"SE_Vx__byte", 0xF000, 0x3000⟩,
  ⟨"SNE_Vx__byte", 0xF000, 0x4000⟩, ⟨"SE_Vx__Vy", 0xF00F, 0x5000⟩,
  ⟨"LD_Vx__byte", 0xF000, 0x6000⟩, ⟨"ADD_Vx__byte", 0xF000, 0x7000⟩,
  ⟨"LD_Vx__Vy", 0xF00F, 0x8000⟩, ⟨"OR_Vx__Vy", 0xF00F, 0x8001⟩,
  ⟨"AND_Vx__Vy", 0xF00F, 0x8002⟩, ⟨"XOR_Vx__Vy", 0xF00F, 0x8003⟩,
  ⟨"ADD_Vx__Vy", 0xF00F, 0x8004⟩, ⟨"SUB_Vx__Vy", 0xF00F, 0x8005⟩,
  ⟨"SHR_Vx____Vy", 0xF00F, 0x8006⟩, ⟨"SUBN_Vx__Vy", 0xF00F, 0x8007⟩]

/-- R95, rows 18 to 34. -/
def opcodeRowsB : List OpcodeRow := [
  ⟨"SHL_Vx____Vy", 0xF00F, 0x800E⟩, ⟨"SNE_Vx__Vy", 0xF00F, 0x9000⟩,
  ⟨"LD_I__addr", 0xF000, 0xA000⟩, ⟨"JP_V0__addr", 0xF000, 0xB000⟩,
  ⟨"RND_Vx__byte", 0xF000, 0xC000⟩, ⟨"DRW_Vx__Vy__nibble", 0xF000, 0xD000⟩,
  ⟨"SKP_Vx", 0xF0FF, 0xE09E⟩, ⟨"SKNP_Vx", 0xF0FF, 0xE0A1⟩, ⟨"LD_Vx__DT", 0xF0FF, 0xF007⟩,
  ⟨"LD_Vx__K", 0xF0FF, 0xF00A⟩, ⟨"LD_DT__Vx", 0xF0FF, 0xF015⟩, ⟨"LD_ST__Vx", 0xF0FF, 0xF018⟩,
  ⟨"ADD_I__Vx", 0xF0FF, 0xF01E⟩, ⟨"LD_F__Vx", 0xF0FF, 0xF029⟩, ⟨"LD_B__Vx", 0xF0FF, 0xF033⟩,
  ⟨"LD__I___Vx", 0xF0FF, 0xF055⟩, ⟨"LD_Vx___I", 0xF0FF, 0xF065⟩]

/-- The complete instruction list of R95. -/
def opcodeTable : List OpcodeRow := opcodeRowsA ++ opcodeRowsB

/-- The word is one the row selects: `op AND mask` equals `match` (R93). -/
def OpcodeRow.selects (r : OpcodeRow) (op : Word) : Bool := op &&& r.mask == r.value

/-- The row of R95 that an instruction belongs to. -/
def Instr.row : Instr → OpcodeRow
  | .cls => ⟨"CLS", 0xFFFF, 0x00E0⟩
  | .ret => ⟨"RET", 0xFFFF, 0x00EE⟩
  | .jp _ => ⟨"JP_addr", 0xF000, 0x1000⟩
  | .call _ => ⟨"CALL_addr", 0xF000, 0x2000⟩
  | .seImm _ _ => ⟨"SE_Vx__byte", 0xF000, 0x3000⟩
  | .sneImm _ _ => ⟨"SNE_Vx__byte", 0xF000, 0x4000⟩
  | .seReg _ _ => ⟨"SE_Vx__Vy", 0xF00F, 0x5000⟩
  | .ldImm _ _ => ⟨"LD_Vx__byte", 0xF000, 0x6000⟩
  | .addImm _ _ => ⟨"ADD_Vx__byte", 0xF000, 0x7000⟩
  | .ldReg _ _ => ⟨"LD_Vx__Vy", 0xF00F, 0x8000⟩
  | .orReg _ _ => ⟨"OR_Vx__Vy", 0xF00F, 0x8001⟩
  | .andReg _ _ => ⟨"AND_Vx__Vy", 0xF00F, 0x8002⟩
  | .xorReg _ _ => ⟨"XOR_Vx__Vy", 0xF00F, 0x8003⟩
  | .addReg _ _ => ⟨"ADD_Vx__Vy", 0xF00F, 0x8004⟩
  | .subReg _ _ => ⟨"SUB_Vx__Vy", 0xF00F, 0x8005⟩
  | .shrReg _ _ => ⟨"SHR_Vx____Vy", 0xF00F, 0x8006⟩
  | .subnReg _ _ => ⟨"SUBN_Vx__Vy", 0xF00F, 0x8007⟩
  | .shlReg _ _ => ⟨"SHL_Vx____Vy", 0xF00F, 0x800E⟩
  | .sneReg _ _ => ⟨"SNE_Vx__Vy", 0xF00F, 0x9000⟩
  | .ldI _ => ⟨"LD_I__addr", 0xF000, 0xA000⟩
  | .jpV0 _ => ⟨"JP_V0__addr", 0xF000, 0xB000⟩
  | .rnd _ _ => ⟨"RND_Vx__byte", 0xF000, 0xC000⟩
  | .drw _ _ _ => ⟨"DRW_Vx__Vy__nibble", 0xF000, 0xD000⟩
  | .skp _ => ⟨"SKP_Vx", 0xF0FF, 0xE09E⟩
  | .sknp _ => ⟨"SKNP_Vx", 0xF0FF, 0xE0A1⟩
  | .ldVxDt _ => ⟨"LD_Vx__DT", 0xF0FF, 0xF007⟩
  | .ldVxK _ => ⟨"LD_Vx__K", 0xF0FF, 0xF00A⟩
  | .ldDtVx _ => ⟨"LD_DT__Vx", 0xF0FF, 0xF015⟩
  | .ldStVx _ => ⟨"LD_ST__Vx", 0xF0FF, 0xF018⟩
  | .addI _ => ⟨"ADD_I__Vx", 0xF0FF, 0xF01E⟩
  | .ldF _ => ⟨"LD_F__Vx", 0xF0FF, 0xF029⟩
  | .ldB _ => ⟨"LD_B__Vx", 0xF0FF, 0xF033⟩
  | .storeRegs _ => ⟨"LD__I___Vx", 0xF0FF, 0xF055⟩
  | .loadRegs _ => ⟨"LD_Vx___I", 0xF0FF, 0xF065⟩

end Sys2Proof
end

