-- ==== Sys2Proof/Machine/State.lean ====
section
/-! DEFINITION. The state of R20 to R32, the machine right after reset (R36), and the reasons a
step could stop outside the machine (there is none). -/

namespace Sys2Proof.Machine

/-- The cause codes of the latch `FAULT` (R32, R231). -/
inductive FaultCause where
  /-- Code 0: no fault. -/
  | none
  /-- Code 1: `CALL` with SP = 16 (R233). -/
  | stackOverflow
  /-- Code 2: `RET` with SP = 0 (R234). -/
  | stackUnderflow
  /-- Code 3: fetch at an odd PC (R235). -/
  | misalignedPC
  /-- Code 4: a word that is no instruction, under the policy `halt` only (R236). -/
  | unknownOpcode
deriving DecidableEq, Repr

/-- `MEM` (R30): pairs of an address and a byte, strictly rising addresses below 4096, no byte
equal to what the unlisted address reads as (`Memory.wf`). -/
abbrev Memory := List Host.Cell

/-- `FB` (R28): 32 rows, row 0 the top one, of 64 one-bit pixels; bit x of row y is the pixel in
column x, and 1 is set. -/
abbrev FrameBuffer := Vector (BitVec 64) 32

/-- Everything the spec gives the machine, and two fields of the model's own (`cfg`, `draws`). -/
structure State where
  /-- `V[0]` to `V[15]` (R20); `V[15]` is VF (R21). -/
  v : Vector Byte 16
  /-- `I`, the index register (R22). -/
  i : Word
  /-- `PC`, the program counter: a 16-bit register (R23). -/
  pc : Word
  /-- `SP`, the number of stack entries in use, 0 to 16 (R25). -/
  sp : Fin 17
  /-- `STACK[0]` to `STACK[15]` (R25). -/
  stack : Vector Word 16
  /-- `DT`, the delay timer (R26). -/
  dt : Byte
  /-- `ST`, the sound timer (R27). -/
  st : Byte
  /-- `FB`, the framebuffer (R28). -/
  fb : FrameBuffer
  /-- `KEY[0]` to `KEY[15]`, true when pressed (R29). -/
  keys : Vector Bool 16
  /-- `MEM` (R30). -/
  mem : Memory
  /-- `WAIT`, the waiting-for-key flag (R31). -/
  wait : Bool
  /-- `FAULT`, the fault latch (R32). -/
  fault : FaultCause
  /-- The model's own: this machine's parameters (R6), never written (assumption 1). -/
  cfg : Config
  /-- The model's own: how many random bytes have been drawn (assumption 2). -/
  draws : Nat
deriving DecidableEq, Repr

/-- The reasons a step could stop as `Host.Outcome.fault`. There is none: "`step` is a total
function of (state, rnd)" (R230), and a Fatal fault of the spec is a next state with the latch
`FAULT` written (R232). Safe: nothing raises it. -/
inductive Fault
deriving DecidableEq, Repr

/-- The reasons an instruction could have no meaning. -/
inductive Refusal where
  /-- Raised by an arm of `exec` whose instruction has no meaning yet. No arm raises it: all 34
  instructions have their meaning. Safe. -/
  | notModelled (mnemonic : String)
deriving DecidableEq, Repr

/-- The reset state of R36 of a machine with the parameters `c`; memory lists nothing, since the
reset contents are what an unlisted address reads as (`Memory.unlisted`). -/
def State.resetOf (c : Config) : State where
  v := Vector.replicate 16 0
  i := 0
  pc := 0x200
  sp := 0
  stack := Vector.replicate 16 0
  dt := 0
  st := 0
  fb := Vector.replicate 32 0
  keys := Vector.replicate 16 false
  mem := []
  wait := false
  fault := .none
  cfg := c
  draws := 0

/-- The machine right after reset, with the default parameters (R36, R37). -/
def State.reset : State := State.resetOf defaultConfig

end Sys2Proof.Machine
end

