-- ==== Sys2Proof/Machine/Ops.lean ====
section
/-! DEFINITION. The named operations over memory, registers, PC, stack, framebuffer and the fault
latch. Every meaning is written over these. -/

namespace Sys2Proof.Machine

/-! ### Memory -/

/-- What an address that memory does not list reads as: the reset contents of R36, `FONT` at
0x050 to 0x09F and 0x00 elsewhere. -/
def Memory.unlisted (c : Config) (a : Nat) : Byte :=
  if h : 0x050 ≤ a ∧ a < 0x0A0 then c.font[a - 0x050]'(by omega) else 0

/-- The byte at an address of `MEM`. -/
def Memory.read (c : Config) : Memory → Nat → Byte
  | [], a => Memory.unlisted c a
  | cell :: rest, a => if cell.1 = a then cell.2 else Memory.read c rest a

/-- The list with one cell placed before the first larger address. -/
def Memory.insertCell (cell : Host.Cell) : Memory → Memory
  | [] => [cell]
  | first :: rest =>
    if cell.1 < first.1 then cell :: first :: rest
    else first :: Memory.insertCell cell rest

/-- The list without an address. -/
def Memory.erase (m : Memory) (a : Nat) : Memory := m.filter (fun cell => cell.1 != a)

/-- Storing a byte: the address's cell is replaced, or removed when the byte is what the unlisted
address reads as. -/
def Memory.write (c : Config) (m : Memory) (a : Nat) (b : Byte) : Memory :=
  if b = Memory.unlisted c a then Memory.erase m a
  else Memory.insertCell (a, b) (Memory.erase m a)

/-- The canonical form: addresses strictly rising, each below 4096, no cell equal to what its
unlisted address reads as. -/
def Memory.wf (c : Config) (m : Memory) : Bool :=
  decide (m.Pairwise (fun p q => p.1 < q.1)) &&
    m.all (fun cell => decide (cell.1 < 4096) && cell.2 != Memory.unlisted c cell.1)

/-- `MemRead(addr, 1)` (R9, R61). -/
def State.readByte (s : State) (addr : Nat) : Byte := Memory.read s.cfg s.mem (addr % 4096)

/-- `MemWrite(addr, 1, v)` (R9, R61). -/
def State.writeByte (s : State) (addr : Nat) (b : Byte) : State :=
  { s with mem := Memory.write s.cfg s.mem (addr % 4096) b }

/-- The two-byte fetch at PC, big-endian (R62, R63). -/
def State.fetchWord (s : State) : Word :=
  wordOfBytes (s.readByte s.pc.toNat) (s.readByte (s.pc.toNat + 1))

/-! ### Registers -/

/-- `V[r]` (R8, R20). -/
def State.getV (s : State) (r : RegIdx) : Byte := s.v[r.toNat]'r.lt16

/-- `V[r] <- b` (R8, R20). -/
def State.setV (s : State) (r : RegIdx) (b : Byte) : State :=
  { s with v := s.v.set r.toNat b r.lt16 }

/-- The register number of VF (R21). -/
abbrev vf : RegIdx := 0xF#4

/-- `I <- w` (R22). -/
def State.setI (s : State) (w : Word) : State := { s with i := w }

/-- `DT <- b` (R26). -/
def State.setDT (s : State) (b : Byte) : State := { s with dt := b }

/-- `ST <- b` (R27). -/
def State.setST (s : State) (b : Byte) : State := { s with st := b }

/-- `FB <- f` (R28). -/
def State.setFB (s : State) (f : FrameBuffer) : State := { s with fb := f }

/-- `WAIT <- b` (R31). -/
def State.setWait (s : State) (b : Bool) : State := { s with wait := b }

/-- One more random byte has been drawn (assumption 2). -/
def State.countDraw (s : State) : State := { s with draws := s.draws + 1 }

/-! ### Program counter -/

/-- `PC <- target`: every write to PC stores `target mod 4096` (R23). -/
def State.setPC (s : State) (target : Nat) : State :=
  { s with pc := BitVec.ofNat 16 (target % 4096) }

/-- `next()` (R10). -/
def State.advance (s : State) : State := s.setPC (s.pc.toNat + 2)

/-- `skip()` (R10). -/
def State.skipNext (s : State) : State := s.setPC (s.pc.toNat + 4)

/-- `PC[0]` (R63). -/
def State.pcOdd (s : State) : Bool := s.pc.getLsbD 0

/-! ### Call stack -/

/-- Push (R25): none when SP = 16. -/
def State.push (s : State) (w : Word) : Option State :=
  if h : s.sp.val < 16 then
    some { s with stack := s.stack.set s.sp.val w h, sp := ⟨s.sp.val + 1, by omega⟩ }
  else none

/-- Pop (R25): the value and the state after, none when SP = 0. The popped slot keeps its
value. -/
def State.pop (s : State) : Option (Word × State) :=
  if h : 0 < s.sp.val then
    some (s.stack[s.sp.val - 1]'(by omega), { s with sp := ⟨s.sp.val - 1, by omega⟩ })
  else none

/-! ### Taking a fault -/

/-- `raise Fatal(cause)`: the latch and nothing else (R232, R241). -/
def State.raiseFatal (s : State) (cause : FaultCause) : State := { s with fault := cause }

/-- What a step does with a word that is no instruction, by the machine's policy (R236). -/
def State.unknownOpcode (s : State) : State :=
  match s.cfg.unknownOpcodePolicy with
  | .skip => s.advance
  | .halt => s.raiseFatal .unknownOpcode

/-! ### Framebuffer -/

/-- The cleared framebuffer (R190). -/
def FrameBuffer.clear : FrameBuffer := Vector.replicate 32 0

/-- The pixel in column x and row y, both wrapped (R28, R192). -/
def FrameBuffer.get (fb : FrameBuffer) (x y : Nat) : Bool :=
  (fb[y % 32]'(Nat.mod_lt y (by decide))).getLsbD (x % 64)

/-- The pixel in column x and row y, both wrapped, XOR 1 (R191). -/
def FrameBuffer.flip (fb : FrameBuffer) (x y : Nat) : FrameBuffer :=
  fb.set (y % 32) (fb[y % 32]'(Nat.mod_lt y (by decide)) ^^^ BitVec.twoPow 64 (x % 64))
    (Nat.mod_lt y (by decide))

/-- The pixel in column x and row y (R28). -/
def State.pixel (s : State) (x y : Nat) : Bool := FrameBuffer.get s.fb x y

/-- The framebuffer while a sprite is drawn, and whether a set pixel has been cleared (R191). -/
structure Blit where
  fb : FrameBuffer
  hit : Bool
deriving DecidableEq, Repr

/-- One sprite bit on the pixel in column x and row y: a 1 flips the pixel and notes a collision
(R191). -/
def Blit.draw (b : Blit) (x y : Nat) (bit : Bool) : Blit :=
  if bit then ⟨FrameBuffer.flip b.fb x y, b.hit || FrameBuffer.get b.fb x y⟩ else b

/-- The first `n` sprite columns of one row; bit 7 is the leftmost (R191, R192). -/
def Blit.drawRow (sprite : Byte) (x y : Nat) : Nat → Blit → Blit
  | 0, b => b
  | n + 1, b => (Blit.drawRow sprite x y n b).draw (x + n) y (sprite.getLsbD (7 - n))

/-- The first `n` sprite rows, row r read from `I + r` (R191). -/
def State.drawRows (s : State) (x y : Nat) : Nat → Blit → Blit
  | 0, b => b
  | n + 1, b =>
    Blit.drawRow (s.readByte (s.i.toNat + n)) x (y + n) 8 (s.drawRows x y n b)

/-! ### Keypad -/

/-- `KEY[k]` (R29). -/
def State.keyDown (s : State) (k : KeyIdx) : Bool := s.keys[k.toNat]'(RegIdx.lt16 k)

/-- The key numbers in rising order. -/
def allKeys : List KeyIdx :=
  [0x0#4, 0x1#4, 0x2#4, 0x3#4, 0x4#4, 0x5#4, 0x6#4, 0x7#4,
   0x8#4, 0x9#4, 0xA#4, 0xB#4, 0xC#4, 0xD#4, 0xE#4, 0xF#4]

/-- The smallest k with `KEY[k] = 1`, if there is one (R212). -/
def State.lowestKey (s : State) : Option KeyIdx := allKeys.find? s.keyDown

/-! ### Block moves -/

/-- `MemWrite(I + k, 1, V[k])` for k = 0, 1, …, n − 1 in that order (R174). -/
def State.storeBlock (s : State) : Nat → State
  | 0 => s
  | n + 1 => (s.storeBlock n).writeByte (s.i.toNat + n) (s.getV (BitVec.ofNat 4 n))

/-- `V[k] <- MemRead(I + k, 1)` for k = 0, 1, …, n − 1 in that order (R175). -/
def State.loadBlock (s : State) : Nat → State
  | 0 => s
  | n + 1 => (s.loadBlock n).setV (BitVec.ofNat 4 n) (s.readByte (s.i.toNat + n))

end Sys2Proof.Machine
end

