-- ==== Sys2Proof/Machine/Operands.lean ====
section
/-! DEFINITION. The operand forms: what each instruction computes from its fields before it writes
anything. -/

namespace Sys2Proof.Machine

/-- `zext_16(NNN)` (R92, R170). -/
def addrWord (nnn : Addr) : Word := nnn.setWidth 16

/-- The return address `CALL` pushes: `(PC + 2) mod 4096` (R122). -/
def State.returnAddress (s : State) : Word := BitVec.ofNat 16 ((s.pc.toNat + 2) % 4096)

/-- The target of `JP V0, addr` before it is reduced: `NNN + V[0]` (R127). -/
def State.offsetTarget (s : State) (nnn : Addr) : Nat := nnn.toNat + (s.getV 0).toNat

/-- The effective address `I + k` of a data access, before it is reduced (R176). -/
def State.dataAddr (s : State) (k : Nat) : Nat := s.i.toNat + k

/-- The key a register names: `V[x] AND 0x0F` (R210, R211). -/
def State.keyOf (s : State) (x : RegIdx) : KeyIdx := (s.getV x).setWidth 4

/-- The glyph address of a register's low nibble: `0x050 + 5 * (V[x] AND 0x0F)` (R172). -/
def State.glyphAddr (s : State) (x : RegIdx) : Word :=
  BitVec.ofNat 16 (0x050 + 5 * ((s.getV x).toNat % 16))

/-- `(I + V[x]) mod 65536` (R171). -/
def State.indexSum (s : State) (x : RegIdx) : Word := s.i + (s.getV x).setWidth 16

/-- The hundreds digit of a byte (R173). -/
def hundreds (b : Byte) : Byte := BitVec.ofNat 8 (b.toNat / 100)

/-- The tens digit of a byte (R173). -/
def tens (b : Byte) : Byte := BitVec.ofNat 8 (b.toNat / 10 % 10)

/-- The ones digit of a byte (R173). -/
def ones (b : Byte) : Byte := BitVec.ofNat 8 (b.toNat % 10)

/-- A key number as a register value, 0x00 to 0x0F (R212). -/
def keyByte (k : KeyIdx) : Byte := k.setWidth 8

end Sys2Proof.Machine
end

