-- ==== Sys2Proof/Machine/Flags.lean ====
section
/-! DEFINITION. Every value the spec writes to VF as a flag (R21), and the write itself. -/

namespace Sys2Proof.Machine

/-- A flag as a register value: 0x01 or 0x00 (R21). -/
def flagByte (f : Bool) : Byte := if f then 0x01 else 0x00

/-- `V[15] <- f`, the flag write, made last (R153). -/
def State.setFlag (s : State) (f : Bool) : State := s.setV vf (flagByte f)

/-- Carry: `a + b ≥ 256` (R146, R152). -/
def carry (a b : Byte) : Bool := decide (256 ≤ a.toNat + b.toNat)

/-- No borrow: minuend ≥ subtrahend (R147, R149, R152). -/
def noBorrow (minuend subtrahend : Byte) : Bool := decide (subtrahend.toNat ≤ minuend.toNat)

/-- The bit a right shift by one moves out (R148). -/
def bitOutRight (a : Byte) : Bool := a.getLsbD 0

/-- The bit a left shift by one moves out (R150). -/
def bitOutLeft (a : Byte) : Bool := a.getLsbD 7

/-- The shared shape of the five flag-writing operations: the result to Vx first, the flag to VF
last, then `next()` (R153). -/
def State.resultThenFlag (s : State) (x : RegIdx) (result : Byte) (flag : Bool) : State :=
  ((s.setV x result).setFlag flag).advance

end Sys2Proof.Machine
end

