-- ==== Sys2Proof/Machine/ControlFlow.lean ====
section
/-! DEFINITION. The control transfer instructions of 40_control_flow.md (R120 to R128). -/

namespace Sys2Proof.Machine

/-- What a meaning answers with. -/
abbrev Result := Host.Outcome State Fault Refusal

/-- The shared shape of the six skips: `skip()` or `next()` (R24, R128). -/
def State.skipIf (s : State) (cond : Bool) : State := if cond then s.skipNext else s.advance

/-- 00EE `RET` (R120, R234). -/
def execRet (s : State) : Result :=
  match s.pop with
  | some (w, s') => .next (s'.setPC w.toNat)
  | none => .next (s.raiseFatal .stackUnderflow)

/-- 1NNN `JP addr` (R121). -/
def execJp (nnn : Addr) (s : State) : Result := .next (s.setPC nnn.toNat)

/-- 2NNN `CALL addr` (R122, R233). -/
def execCall (nnn : Addr) (s : State) : Result :=
  match s.push s.returnAddress with
  | some s' => .next (s'.setPC nnn.toNat)
  | none => .next (s.raiseFatal .stackOverflow)

/-- 3XKK `SE Vx, byte` (R123). -/
def execSeImm (x : RegIdx) (kk : Byte) (s : State) : Result :=
  .next (s.skipIf (s.getV x == kk))

/-- 4XKK `SNE Vx, byte` (R124). -/
def execSneImm (x : RegIdx) (kk : Byte) (s : State) : Result :=
  .next (s.skipIf (s.getV x != kk))

/-- 5XY0 `SE Vx, Vy` (R125). -/
def execSeReg (x y : RegIdx) (s : State) : Result :=
  .next (s.skipIf (s.getV x == s.getV y))

/-- 9XY0 `SNE Vx, Vy` (R126). -/
def execSneReg (x y : RegIdx) (s : State) : Result :=
  .next (s.skipIf (s.getV x != s.getV y))

/-- BNNN `JP V0, addr` (R127). -/
def execJpV0 (nnn : Addr) (s : State) : Result := .next (s.setPC (s.offsetTarget nnn))

end Sys2Proof.Machine
end

