-- ==== Sys2Proof/Machine/Alu.lean ====
section
/-! DEFINITION. The load-immediate, arithmetic, logic, shift and random instructions of 41_alu.md
(R140 to R153). -/

namespace Sys2Proof.Machine

/-- 6XKK `LD Vx, byte` (R140). -/
def execLdImm (x : RegIdx) (kk : Byte) (s : State) : Result := .next (s.setV x kk).advance

/-- 7XKK `ADD Vx, byte` (R141); VF is not written. -/
def execAddImm (x : RegIdx) (kk : Byte) (s : State) : Result :=
  .next (s.setV x (s.getV x + kk)).advance

/-- 8XY0 `LD Vx, Vy` (R142). -/
def execLdReg (x y : RegIdx) (s : State) : Result := .next (s.setV x (s.getV y)).advance

/-- 8XY1 `OR Vx, Vy` (R143); VF is not written. -/
def execOrReg (x y : RegIdx) (s : State) : Result :=
  .next (s.setV x (s.getV x ||| s.getV y)).advance

/-- 8XY2 `AND Vx, Vy` (R144); VF is not written. -/
def execAndReg (x y : RegIdx) (s : State) : Result :=
  .next (s.setV x (s.getV x &&& s.getV y)).advance

/-- 8XY3 `XOR Vx, Vy` (R145); VF is not written. -/
def execXorReg (x y : RegIdx) (s : State) : Result :=
  .next (s.setV x (s.getV x ^^^ s.getV y)).advance

/-- 8XY4 `ADD Vx, Vy` (R146). -/
def execAddReg (x y : RegIdx) (s : State) : Result :=
  .next (s.resultThenFlag x (s.getV x + s.getV y) (carry (s.getV x) (s.getV y)))

/-- 8XY5 `SUB Vx, Vy` (R147). -/
def execSubReg (x y : RegIdx) (s : State) : Result :=
  .next (s.resultThenFlag x (s.getV x - s.getV y) (noBorrow (s.getV x) (s.getV y)))

/-- 8XY6 `SHR Vx {, Vy}` (R148); Vy is neither read nor written. -/
def execShrReg (x _y : RegIdx) (s : State) : Result :=
  .next (s.resultThenFlag x (s.getV x >>> 1) (bitOutRight (s.getV x)))

/-- 8XY7 `SUBN Vx, Vy` (R149). -/
def execSubnReg (x y : RegIdx) (s : State) : Result :=
  .next (s.resultThenFlag x (s.getV y - s.getV x) (noBorrow (s.getV y) (s.getV x)))

/-- 8XYE `SHL Vx {, Vy}` (R150); Vy is neither read nor written. -/
def execShlReg (x _y : RegIdx) (s : State) : Result :=
  .next (s.resultThenFlag x (s.getV x <<< 1) (bitOutLeft (s.getV x)))

/-- The effect of `RND` for a given random byte (R151). -/
def State.randomMasked (s : State) (x : RegIdx) (kk rnd : Byte) : State :=
  (s.setV x (rnd &&& kk)).countDraw.advance

/-- CXKK `RND Vx, byte` (R151): the random byte is a free value (assumption 2). -/
def execRnd (x : RegIdx) (kk : Byte) (s : State) : Result :=
  .next (s.randomMasked x kk (Config.freeRnd s.draws))

end Sys2Proof.Machine
end

