-- ==== Sys2Proof/Machine/IndexMemory.lean ====
section
/-! DEFINITION. The index register and memory instructions of 42_index_memory.md (R170 to R176). -/

namespace Sys2Proof.Machine

/-- ANNN `LD I, addr` (R170). -/
def execLdI (nnn : Addr) (s : State) : Result := .next (s.setI (addrWord nnn)).advance

/-- FX1E `ADD I, Vx` (R171); VF is not written. -/
def execAddI (x : RegIdx) (s : State) : Result := .next (s.setI (s.indexSum x)).advance

/-- FX29 `LD F, Vx` (R172). -/
def execLdF (x : RegIdx) (s : State) : Result := .next (s.setI (s.glyphAddr x)).advance

/-- The three digit stores of `LD B, Vx` in the order of R173. -/
def State.storeDigits (s : State) (b : Byte) : State :=
  ((s.writeByte (s.dataAddr 0) (hundreds b)).writeByte (s.dataAddr 1) (tens b)).writeByte
    (s.dataAddr 2) (ones b)

/-- FX33 `LD B, Vx` (R173); I is unchanged. -/
def execLdB (x : RegIdx) (s : State) : Result := .next (s.storeDigits (s.getV x)).advance

/-- FX55 `LD [I], Vx` (R174): V0 to VX inclusive; I is unchanged. -/
def execStoreRegs (x : RegIdx) (s : State) : Result := .next (s.storeBlock (x.toNat + 1)).advance

/-- FX65 `LD Vx, [I]` (R175): V0 to VX inclusive; I is unchanged. -/
def execLoadRegs (x : RegIdx) (s : State) : Result := .next (s.loadBlock (x.toNat + 1)).advance

end Sys2Proof.Machine
end

