-- ==== Sys2Proof/Machine/Display.lean ====
section
/-! DEFINITION. The display instructions of 43_display.md (R190 to R193). -/

namespace Sys2Proof.Machine

/-- 00E0 `CLS` (R190). -/
def execCls (s : State) : Result := .next (s.setFB FrameBuffer.clear).advance

/-- The framebuffer and the collision after the sprite of N rows at `I` is drawn at (x0, y0)
(R191). -/
def State.blit (s : State) (x0 y0 : Byte) (n : Nibble) : Blit :=
  s.drawRows x0.toNat y0.toNat n.toNat ⟨s.fb, false⟩

/-- DXYN `DRW Vx, Vy, nibble` (R191): both coordinates are read before VF is written. -/
def execDrw (x y : RegIdx) (n : Nibble) (s : State) : Result :=
  .next (((s.setFB (s.blit (s.getV x) (s.getV y) n).fb).setFlag
    (s.blit (s.getV x) (s.getV y) n).hit).advance)

end Sys2Proof.Machine
end

