-- ==== Sys2Proof/Machine/KeypadTimers.lean ====
section
/-! DEFINITION. The keypad and timer instructions of 44_keypad_timers.md (R210 to R215). -/

namespace Sys2Proof.Machine

/-- EX9E `SKP Vx` (R210). -/
def execSkp (x : RegIdx) (s : State) : Result := .next (s.skipIf (s.keyDown (s.keyOf x)))

/-- EXA1 `SKNP Vx` (R211). -/
def execSknp (x : RegIdx) (s : State) : Result := .next (s.skipIf (!s.keyDown (s.keyOf x)))

/-- FX07 `LD Vx, DT` (R213). -/
def execLdVxDt (x : RegIdx) (s : State) : Result := .next (s.setV x s.dt).advance

/-- FX0A `LD Vx, K` (R212): with no key down, WAIT is set and PC is not written. -/
def execLdVxK (x : RegIdx) (s : State) : Result :=
  match s.lowestKey with
  | none => .next (s.setWait true)
  | some k => .next (((s.setV x (keyByte k)).setWait false).advance)

/-- FX15 `LD DT, Vx` (R214). -/
def execLdDtVx (x : RegIdx) (s : State) : Result := .next (s.setDT (s.getV x)).advance

/-- FX18 `LD ST, Vx` (R215). -/
def execLdStVx (x : RegIdx) (s : State) : Result := .next (s.setST (s.getV x)).advance

end Sys2Proof.Machine
end

