-- ==== Sys2Proof/Machine/Step.lean ====
section
/-! DEFINITION. The operation `step` of R230, and the placing of one instruction where it will be
fetched. -/

namespace Sys2Proof.Machine

/-- One fetch-decode-execute cycle, in the order of R230: a latched fault stops everything (R251),
an odd PC is a Fatal fault before any read (R235), then fetch, decode, and the instruction's rule
or the unknown-opcode policy (R236). -/
def step (s : State) : Host.Outcome State Fault Refusal :=
  if s.fault ≠ .none then .next s
  else if s.pcOdd then .next (s.raiseFatal .misalignedPC)
  else
    match decode s.fetchWord with
    | .instr i => exec i s
    | .unknownOpcode _ => .next s.unknownOpcode

/-- The state with a table word stored where the next step fetches. A fetch needs no latched fault
and an even PC, so both are set; from reset neither changes anything (assumption 4). -/
def State.withFetchWord (s : State) (nbits w : Nat) : State :=
  let t := ({ s with fault := .none } : State).setPC (s.pc.toNat / 2 * 2)
  (t.writeByte t.pc.toNat (highByte (tableWord nbits w))).writeByte (t.pc.toNat + 1)
    (lowByte (tableWord nbits w))

end Sys2Proof.Machine
end

