-- ==== Sys2Proof/Machine/HostOps.lean ====
section
/-! DEFINITION. The other operations of the block (R245, R270 to R280), its outputs, and histories
of operations. -/

namespace Sys2Proof.Machine

/-! ### Outputs (R274 to R276) -/

/-- The display export: the 2048 bits in row-major order, `FB[y * 64 + x]` (R274). -/
def State.framebuffer (s : State) : List Bool :=
  (List.range 2048).map (fun p => s.pixel (p % 64) (p / 64))

/-- The sound export `ST > 0` (R247, R275). -/
def State.soundActive (s : State) : Bool := decide (0 < s.st.toNat)

/-- The numeric code of a fault cause (R231). -/
def FaultCause.code : FaultCause → Nat
  | .none => 0
  | .stackOverflow => 1
  | .stackUnderflow => 2
  | .misalignedPC => 3
  | .unknownOpcode => 4

/-- The status export `fault` (R276). -/
def State.faultCode (s : State) : Nat := s.fault.code

/-- The status export `waiting` (R276). -/
def State.waiting (s : State) : Bool := s.wait

/-- The diagnostic event `UnknownOpcode(pc, op)` (R236). -/
structure Diagnostic where
  pc : Word
  op : Word
deriving DecidableEq, Repr

/-- The event the next `step` emits, if any: an output of the step, not state (R236). A step with
the fault latched emits none (R251), and under the policy `halt` there is a fault instead. -/
def State.diagnostic (s : State) : Option Diagnostic :=
  if s.fault ≠ .none then none
  else if s.pcOdd then none
  else
    match decode s.fetchWord with
    | .instr _ => none
    | .unknownOpcode op =>
      match s.cfg.unknownOpcodePolicy with
      | .skip => some ⟨s.pc, op⟩
      | .halt => none

/-! ### Operations -/

/-- A counter that stops at 0 (R245). -/
def countDown (b : Byte) : Byte := if 0 < b.toNat then b - 1 else b

/-- `tick_timers()` (R245): DT and ST only, whatever FAULT and WAIT are (R251). -/
def State.tickTimers (s : State) : State := { s with dt := countDown s.dt, st := countDown s.st }

/-- `tick_timers` performed n times. -/
def State.tickTimes (s : State) : Nat → State
  | 0 => s
  | n + 1 => (s.tickTimes n).tickTimers

/-- `set_keys(k)` (R273): the whole latch and nothing else. -/
def State.setKeys (s : State) (k : Vector Bool 16) : State := { s with keys := k }

/-- `reset()` (R270) of the same machine: its parameters stay, and later random bytes are new
draws (assumption 2). -/
def State.hostReset (s : State) : State := { State.resetOf s.cfg with draws := s.draws }

/-- `MEM[a + k] <- bytes[k]`, ascending (R271). -/
def State.copyBytes (s : State) (a : Nat) : List Byte → State
  | [] => s
  | b :: rest => (s.writeByte a b).copyBytes (a + 1) rest

/-- What `load` can report (R272). -/
inductive LoadError where
  | romTooLarge
deriving DecidableEq, Repr

/-- What `load` answers: the state after, or an error with no state change. -/
inductive LoadResult where
  | ok (s : State)
  | error (e : LoadError)
deriving DecidableEq, Repr

/-- `load(rom)` (R271, R272). -/
def State.load (s : State) (rom : List Byte) : LoadResult :=
  if 3584 < rom.length then .error .romTooLarge
  else .ok (s.hostReset.copyBytes 0x200 rom)

/-! ### Histories (R280) -/

/-- The operations that write state; the exports only read. -/
inductive Operation where
  | reset
  | load (rom : List Byte)
  | step
  | tickTimers
  | setKeys (k : Vector Bool 16)
deriving DecidableEq, Repr

/-- One operation; each is atomic (R280). A rejected `load` changes nothing (R272). -/
def State.perform (s : State) : Operation → Host.Outcome State Fault Refusal
  | .reset => .next s.hostReset
  | .load rom =>
    match s.load rom with
    | .ok t => .next t
    | .error _ => .next s
  | .step => step s
  | .tickTimers => .next s.tickTimers
  | .setKeys k => .next (s.setKeys k)

/-- A finite history of operations, in any interleaving (R280). -/
def State.performAll (s : State) : List Operation → Host.Outcome State Fault Refusal
  | [] => .next s
  | op :: rest =>
    match s.perform op with
    | .next t => t.performAll rest
    | .fault r => .fault r
    | .refused r => .refused r

end Sys2Proof.Machine
end

