-- ==== Sys2Proof/Safety.lean ====
section
/-! DEFINITION. The terms in which claims are stated: which part of the state an operation keeps,
the invariant, and the named ends of a run. -/

namespace Sys2Proof.Machine

/-- One observable part of the state. -/
inductive Part where
  | reg (r : RegIdx)
  | index
  | pc
  | sp
  | stackSlot (j : Fin 16)
  | delayTimer
  | soundTimer
  | framebuffer
  | key (k : KeyIdx)
  | memByte (a : Nat)
  | waitFlag
  | faultLatch
  | config
  | draws
deriving DecidableEq, Repr

/-- The part holds the same value in both states; memory is seen through the read of one byte. -/
def Part.same (s t : State) : Part → Prop
  | .reg r => t.getV r = s.getV r
  | .index => t.i = s.i
  | .pc => t.pc = s.pc
  | .sp => t.sp = s.sp
  | .stackSlot j => t.stack[j] = s.stack[j]
  | .delayTimer => t.dt = s.dt
  | .soundTimer => t.st = s.st
  | .framebuffer => t.fb = s.fb
  | .key k => t.keyDown k = s.keyDown k
  | .memByte a => t.readByte a = s.readByte a
  | .waitFlag => t.wait = s.wait
  | .faultLatch => t.fault = s.fault
  | .config => t.cfg = s.cfg
  | .draws => t.draws = s.draws

/-- The frame: every part but those that `written` names is unchanged. -/
def Keeps (written : Part → Prop) (s t : State) : Prop := ∀ p, ¬ written p → p.same s t

/-- PC has moved on by `n` bytes, with the wrap of R10 and R24. -/
def PcMoved (n : Nat) (s t : State) : Prop := t.pc.toNat = (s.pc.toNat + n) % 4096

/-- FAULT is none and PC is even: the states in which a step fetches (R230). -/
def State.CanFetch (s : State) : Prop := s.fault = .none ∧ s.pc.toNat % 2 = 0

/-- The next step fetches and runs the instruction i (R230). -/
def State.About (s : State) (i : Instr) : Prop := s.CanFetch ∧ decode s.fetchWord = .instr i

/-- The end shape *halted-by-fault* of R284. -/
def State.HaltedByFault (s : State) : Prop := s.fault ≠ .none

/-- The end shape *idle* of R284: the word at PC is a jump to PC. -/
def State.Idle (s : State) : Prop :=
  s.fault = .none ∧ s.pc.toNat % 2 = 0 ∧
    ∃ nnn : Addr, decode s.fetchWord = .instr (.jp nnn) ∧ nnn.toNat = s.pc.toNat

/-- What a latched cause says about the state it was raised in and that it left (R231). -/
def State.FaultExplained (s : State) : Prop :=
  match s.fault with
  | .none => True
  | .stackOverflow =>
      s.sp.val = 16 ∧ s.pc.toNat % 2 = 0 ∧ ∃ nnn, decode s.fetchWord = .instr (.call nnn)
  | .stackUnderflow => s.sp.val = 0 ∧ s.pc.toNat % 2 = 0 ∧ decode s.fetchWord = .instr .ret
  | .misalignedPC => s.pc.toNat % 2 = 1
  | .unknownOpcode =>
      s.cfg.unknownOpcodePolicy = .halt ∧ s.pc.toNat % 2 = 0 ∧
        ∃ op, decode s.fetchWord = .unknownOpcode op

/-- The invariant of the machine. -/
structure State.Inv (s : State) : Prop where
  /-- Memory is in its canonical form. -/
  memory : Memory.wf s.cfg s.mem = true
  /-- PC is in 0x000 to 0xFFF (R23). -/
  pcRange : s.pc.toNat < 4096
  /-- Bits 15:12 of every stack slot are 0 (R25). -/
  stackRange : ∀ j : Fin 16, s.stack[j].toNat < 4096
  /-- Every stack slot is even (R120, R235). -/
  stackEven : ∀ j : Fin 16, s.stack[j].toNat % 2 = 0
  /-- While WAIT is 1, no fault is latched and PC is the address of an FX0A (R31). -/
  waiting : s.wait = true → ∃ x, s.About (.ldVxK x)
  /-- A latched fault names the condition that raised it (R231, R232). -/
  faulted : s.FaultExplained

/-! ### The shapes of effect that claims name -/

/-- The instruction completes, writes `b` to register x, moves PC on by 2, and keeps the rest. -/
def WritesReg (i : Instr) (x : RegIdx) (b : Byte) (s : State) : Prop :=
  ∃ t, exec i s = .next t ∧ t.getV x = b ∧ PcMoved 2 s t ∧ Keeps (· ∈ [.reg x, .pc]) s t

/-- The instruction completes, writes to register x the byte whose bit j is `f j`, moves PC on by
2, and keeps the rest. -/
def WritesBits (i : Instr) (x : RegIdx) (f : Nat → Bool) (s : State) : Prop :=
  ∃ t, exec i s = .next t ∧ (∀ j, j < 8 → (t.getV x).getLsbD j = f j) ∧ PcMoved 2 s t ∧
    Keeps (· ∈ [.reg x, .pc]) s t

/-- The instruction completes, writes the number `result` to Vx and the flag to VF, moves PC on by
2, and keeps the rest. With X = F the flag is what VF holds after (R153). -/
def WritesResultAndFlag (i : Instr) (x : RegIdx) (result : Nat) (flag : Prop) (s : State) : Prop :=
  ∃ t, exec i s = .next t ∧ (x ≠ vf → (t.getV x).toNat = result) ∧
    (flag → (t.getV vf).toNat = 1) ∧ (¬ flag → (t.getV vf).toNat = 0) ∧ PcMoved 2 s t ∧
    Keeps (· ∈ [.reg x, .reg vf, .pc]) s t

/-- The instruction completes, writes the number `n` to I, moves PC on by 2, and keeps the rest. -/
def WritesIndex (i : Instr) (n : Nat) (s : State) : Prop :=
  ∃ t, exec i s = .next t ∧ t.i.toNat = n ∧ PcMoved 2 s t ∧ Keeps (· ∈ [.index, .pc]) s t

/-- The instruction completes, moves PC on by 4 when the condition holds and by 2 when it does
not, and keeps the rest. -/
def SkipsWhen (i : Instr) (cond : Prop) (s : State) : Prop :=
  ∃ t, exec i s = .next t ∧ (cond → PcMoved 4 s t) ∧ (¬ cond → PcMoved 2 s t) ∧
    Keeps (· = .pc) s t

/-- The instruction latches the cause and changes nothing else (R232). -/
def TakesFault (i : Instr) (cause : FaultCause) (s : State) : Prop :=
  ∃ t, exec i s = .next t ∧ t.fault = cause ∧ Keeps (· = .faultLatch) s t

/-- The part is one of the `n` bytes at `I`, `I + 1`, …, each address reduced as an access reduces
it (R61, R176). -/
def IndexedByte (s : State) (n : Nat) (p : Part) : Prop :=
  ∃ k a, k < n ∧ p = .memByte a ∧ a % 4096 = s.dataAddr k % 4096

/-- The bit of the sprite of `n` rows at I, drawn at (x0, y0), that lands on the pixel (px, py):
sprite column c and row r are how far the pixel is to the right of and below the start, both taken
around the screen (R192). No sprite bit lands there when c is not below 8 or r not below n. -/
def State.spriteBit (s : State) (x0 y0 n px py : Nat) : Bool :=
  decide ((px + 64 - x0 % 64) % 64 < 8) && decide ((py + 32 - y0 % 32) % 32 < n) &&
    (s.readByte (s.dataAddr ((py + 32 - y0 % 32) % 32))).getLsbD (7 - (px + 64 - x0 % 64) % 64)

end Sys2Proof.Machine

namespace Sys2Proof

open Machine

/-- The instruction reads the delay timer or writes a timer. -/
def Instr.usesTimers : Instr → Prop
  | .ldVxDt _ | .ldDtVx _ | .ldStVx _ => True
  | _ => False

/-- The instruction reads the keypad latch. -/
def Instr.readsKeys : Instr → Prop
  | .skp _ | .sknp _ | .ldVxK _ => True
  | _ => False

/-- The instruction's ordinary destination registers include r (R34, column Vx and V0..Vx). -/
def Instr.hasDest (r : RegIdx) : Instr → Prop
  | .ldImm x _ | .addImm x _ | .ldReg x _ | .orReg x _ | .andReg x _ | .xorReg x _
  | .addReg x _ | .subReg x _ | .shrReg x _ | .subnReg x _ | .shlReg x _ | .rnd x _
  | .ldVxDt x | .ldVxK x => x = r
  | .loadRegs x => r.toNat ≤ x.toNat
  | _ => False

/-- The six instructions that write VF as a side effect (R21). -/
def Instr.writesFlag : Instr → Prop
  | .addReg _ _ | .subReg _ _ | .shrReg _ _ | .subnReg _ _ | .shlReg _ _ | .drw _ _ _ => True
  | _ => False

end Sys2Proof
end

