-- ==== Sys2Proof/Certificates/Slice0/Obligations.lean ====
section
/-! DEFINITION. The statements for the provers. PC clauses use `PcMoved`, whose wrap at 4096 is the
spec's own decision D3 (R10, R24); a statement that rests on a decision of
spec/92_eei_decisions.md names it. -/

open Sys2Proof Sys2Proof.Machine

/-! ### Control transfer -/

/-- R121, R128, R235. `JP addr` stores its target, odd targets too, and keeps the rest; an odd target
faults at the next fetch. That this fault is the latch MisalignedPC with PC held is decision D5
(assumption 6, DEDUCED). -/
def Obligations.JumpStoresTheTarget : Prop :=
  ∀ (nnn : Addr) (s : State), ∃ t, exec (.jp nnn) s = .next t ∧ t.pc.toNat = nnn.toNat ∧
    Keeps (· = .pc) s t ∧
    (s.fault = .none → nnn.toNat % 2 = 1 →
      ∃ u, step t = .next u ∧ u.fault = .misalignedPC ∧ u.pc = t.pc)

/-- R122. `CALL addr` with SP = j below 16 pushes the address after it and jumps. The wrap of the
pushed address is decision D3; that slot SP is written and SP counts entries is decision D4. -/
def Obligations.CallPushesReturnAddress : Prop :=
  ∀ (nnn : Addr) (s : State) (j : Fin 16), s.sp.val = j.val →
    ∃ t, exec (.call nnn) s = .next t ∧ t.stack[j].toNat = (s.pc.toNat + 2) % 4096 ∧
      t.sp.val = j.val + 1 ∧ t.pc.toNat = nnn.toNat ∧
      Keeps (· ∈ [.pc, .sp, .stackSlot j]) s t

/-- R122, R233. `CALL addr` with SP = 16 latches StackOverflow and does nothing else. The latch and
the held state are decision D5. -/
def Obligations.CallOnFullStackFaults : Prop :=
  ∀ (nnn : Addr) (s : State), s.sp.val = 16 → TakesFault (.call nnn) .stackOverflow s

/-- R120. `RET` with SP = j + 1 pops slot j into PC, and the slot keeps its value (decision D4).
The reduction mod 4096 is that of every write to PC (R23, decision D3); in a state of the
invariant a slot is below 4096 already. -/
def Obligations.RetPopsReturnAddress : Prop :=
  ∀ (s : State) (j : Fin 16), s.sp.val = j.val + 1 →
    ∃ t, exec .ret s = .next t ∧ t.pc.toNat = s.stack[j].toNat % 4096 ∧ t.sp.val = j.val ∧
      Keeps (· ∈ [.pc, .sp]) s t

/-- R120, R234. `RET` with SP = 0 latches StackUnderflow and does nothing else (decision D5). -/
def Obligations.RetOnEmptyStackFaults : Prop :=
  ∀ s : State, s.sp.val = 0 → TakesFault .ret .stackUnderflow s

/-- R129. A call to an address that holds `RET`, then that `RET`: PC is after the call and SP is
what it was. -/
def Obligations.CallThenRetRoundTrip : Prop :=
  ∀ (nnn : Addr) (s : State), s.About (.call nnn) → s.sp.val < 16 → nnn.toNat % 2 = 0 →
    s.readByte nnn.toNat = 0x00 → s.readByte (nnn.toNat + 1) = 0xEE →
    ∃ t u, step s = .next t ∧ t.pc.toNat = nnn.toNat ∧ step t = .next u ∧ PcMoved 2 s u ∧
      u.sp = s.sp

/-- R127. `JP V0, addr` stores `(NNN + V0) mod 4096`. That the offset register is V0 is decision
D14. -/
def Obligations.JumpWithOffsetAddsV0 : Prop :=
  ∀ (nnn : Addr) (s : State), ∃ t, exec (.jpV0 nnn) s = .next t ∧
    t.pc.toNat = (nnn.toNat + (s.getV 0).toNat) % 4096 ∧ Keeps (· = .pc) s t

/-- R123 to R126. The four register skips. The wrap of PC is decision D3. -/
def Obligations.RegisterSkips : Prop :=
  ∀ (x y : RegIdx) (kk : Byte) (s : State),
    SkipsWhen (.seImm x kk) ((s.getV x).toNat = kk.toNat) s ∧
    SkipsWhen (.sneImm x kk) ((s.getV x).toNat ≠ kk.toNat) s ∧
    SkipsWhen (.seReg x y) ((s.getV x).toNat = (s.getV y).toNat) s ∧
    SkipsWhen (.sneReg x y) ((s.getV x).toNat ≠ (s.getV y).toNat) s

/-- R210, R211. The two key skips test the key numbered by the low nibble of Vx (decision D19). -/
def Obligations.KeySkips : Prop :=
  ∀ (x : RegIdx) (k : KeyIdx) (s : State), k.toNat = (s.getV x).toNat % 16 →
    SkipsWhen (.skp x) (s.keyDown k = true) s ∧ SkipsWhen (.sknp x) (s.keyDown k = false) s

/-! ### Arithmetic, logic, random -/

/-- R140, R142. The two register loads. The wrap of PC is decision D3. -/
def Obligations.RegisterLoads : Prop :=
  ∀ (x y : RegIdx) (kk : Byte) (s : State),
    WritesReg (.ldImm x kk) x kk s ∧ WritesReg (.ldReg x y) x (s.getV y) s

/-- R141. `ADD Vx, byte` wraps mod 256 and writes no flag (decision D10). -/
def Obligations.AddImmediateWrapsWithoutFlag : Prop :=
  ∀ (x : RegIdx) (kk : Byte) (s : State), ∃ t, exec (.addImm x kk) s = .next t ∧
    (t.getV x).toNat = ((s.getV x).toNat + kk.toNat) % 256 ∧ PcMoved 2 s t ∧
    Keeps (· ∈ [.reg x, .pc]) s t

/-- R143 to R145. OR, AND and XOR, bit by bit; VF is not written (decision D11). -/
def Obligations.LogicIsBitwise : Prop :=
  ∀ (x y : RegIdx) (s : State),
    WritesBits (.orReg x y) x (fun j => (s.getV x).getLsbD j || (s.getV y).getLsbD j) s ∧
    WritesBits (.andReg x y) x (fun j => (s.getV x).getLsbD j && (s.getV y).getLsbD j) s ∧
    WritesBits (.xorReg x y) x (fun j => (s.getV x).getLsbD j ^^ (s.getV y).getLsbD j) s

/-- R146, R153. `ADD Vx, Vy`: the sum mod 256 and the carry; with X = F the flag wins (decision
D13). -/
def Obligations.AddSetsCarry : Prop :=
  ∀ (x y : RegIdx) (s : State),
    WritesResultAndFlag (.addReg x y) x (((s.getV x).toNat + (s.getV y).toNat) % 256)
      (256 ≤ (s.getV x).toNat + (s.getV y).toNat) s

/-- R147, R149, R153. `SUB` is Vx − Vy and `SUBN` is Vy − Vx (decision D33), mod 256; VF is 1 when
there is no borrow, equal operands included; with X = F the flag wins (decision D13). -/
def Obligations.SubtractSetsNoBorrow : Prop :=
  ∀ (x y : RegIdx) (s : State),
    WritesResultAndFlag (.subReg x y) x (((s.getV x).toNat + 256 - (s.getV y).toNat) % 256)
      ((s.getV y).toNat ≤ (s.getV x).toNat) s ∧
    WritesResultAndFlag (.subnReg x y) x (((s.getV y).toNat + 256 - (s.getV x).toNat) % 256)
      ((s.getV x).toNat ≤ (s.getV y).toNat) s

/-- R148, R150, R153. The shifts by one of Vx, for every Y; VF is the bit moved out (decisions D12,
D13). -/
def Obligations.ShiftsSetTheBitMovedOut : Prop :=
  ∀ (x y : RegIdx) (s : State),
    WritesResultAndFlag (.shrReg x y) x ((s.getV x).toNat / 2) ((s.getV x).toNat % 2 = 1) s ∧
    WritesResultAndFlag (.shlReg x y) x ((s.getV x).toNat * 2 % 256) (128 ≤ (s.getV x).toNat) s

/-- R151. `RND Vx, byte`: every bit that is 0 in KK is 0 in the result, the result is at most KK, and
its other bits are those of the free random byte of this draw. The statement holds whatever that
byte is (decision D23; assumption 2). -/
def Obligations.RandomIsMasked : Prop :=
  ∀ (x : RegIdx) (kk : Byte) (s : State), ∃ t, exec (.rnd x kk) s = .next t ∧
    (∀ j, j < 8 → (t.getV x).getLsbD j =
      ((Config.freeRnd s.draws).getLsbD j && kk.getLsbD j)) ∧
    (t.getV x).toNat ≤ kk.toNat ∧ t.draws = s.draws + 1 ∧ PcMoved 2 s t ∧
    Keeps (· ∈ [.reg x, .pc, .draws]) s t

/-! ### Index register and memory -/

/-- R170, R171, R172. The three instructions that write I: the wrap of `ADD I` at 65536 is decision
D32 and the low nibble of `LD F` decision D17. -/
def Obligations.IndexRegisterWrites : Prop :=
  ∀ (nnn : Addr) (x : RegIdx) (s : State),
    WritesIndex (.ldI nnn) nnn.toNat s ∧
    WritesIndex (.addI x) ((s.i.toNat + (s.getV x).toNat) % 65536) s ∧
    WritesIndex (.ldF x) (0x050 + 5 * ((s.getV x).toNat % 16)) s

/-- R173. `LD B, Vx` stores the hundreds, tens and ones digit at I, I + 1, I + 2 (decision D16) and
no other byte. -/
def Obligations.BcdStoresThreeDigits : Prop :=
  ∀ (x : RegIdx) (s : State), ∃ t, exec (.ldB x) s = .next t ∧
    (∃ h d o : Nat, d ≤ 9 ∧ o ≤ 9 ∧ (s.getV x).toNat = 100 * h + 10 * d + o ∧
      (t.readByte (s.dataAddr 0)).toNat = h ∧ (t.readByte (s.dataAddr 1)).toNat = d ∧
      (t.readByte (s.dataAddr 2)).toNat = o) ∧
    PcMoved 2 s t ∧ Keeps (fun p => p = .pc ∨ IndexedByte s 3 p) s t

/-- R174. `LD [I], Vx` stores V0 to VX at I upward and no other byte; I is unchanged (decision
D15). -/
def Obligations.RegisterDumpStoresBlock : Prop :=
  ∀ (x : RegIdx) (s : State), ∃ t, exec (.storeRegs x) s = .next t ∧
    (∀ k : RegIdx, k.toNat ≤ x.toNat → t.readByte (s.dataAddr k.toNat) = s.getV k) ∧
    PcMoved 2 s t ∧ Keeps (fun p => p = .pc ∨ IndexedByte s (x.toNat + 1) p) s t

/-- R175. `LD Vx, [I]` loads V0 to VX from I upward; I and memory are unchanged (decision D15). -/
def Obligations.RegisterLoadReadsBlock : Prop :=
  ∀ (x : RegIdx) (s : State), ∃ t, exec (.loadRegs x) s = .next t ∧
    (∀ k : RegIdx, k.toNat ≤ x.toNat → t.getV k = s.readByte (s.dataAddr k.toNat)) ∧
    PcMoved 2 s t ∧
    Keeps (fun p => p = .pc ∨ ∃ k : RegIdx, k.toNat ≤ x.toNat ∧ p = .reg k) s t

/-- R174, R175. A register load with the I and the memory that a register dump left gives the dumped
registers back, whatever else has changed. -/
def Obligations.DumpThenLoadRestoresRegisters : Prop :=
  ∀ (x : RegIdx) (s : State), ∃ t, exec (.storeRegs x) s = .next t ∧
    ∀ t' : State, t'.i = t.i → (∀ a, t'.readByte a = t.readByte a) →
      ∃ u, exec (.loadRegs x) t' = .next u ∧
        ∀ k : RegIdx, k.toNat ≤ x.toNat → u.getV k = s.getV k

/-! ### Display -/

/-- R190. `CLS` clears every pixel and keeps the rest. The wrap of PC is decision D3. -/
def Obligations.ClearScreenClearsEveryPixel : Prop :=
  ∀ s : State, ∃ t, exec .cls s = .next t ∧
    (∀ px py, px < 64 → py < 32 → t.pixel px py = false) ∧ PcMoved 2 s t ∧
    Keeps (· ∈ [.framebuffer, .pc]) s t

/-- R191, R192, R193. `DRW` XORs each pixel with the sprite bit that lands on it, wrapping on both
axes (decision D21), and VF says whether a set pixel was cleared; X = F and Y = F use the old VF
as a coordinate. -/
def Obligations.DrawXorsSpriteAndFlagsCollision : Prop :=
  ∀ (x y : RegIdx) (n : Nibble) (s : State), ∃ t, exec (.drw x y n) s = .next t ∧
    (∀ px py, px < 64 → py < 32 → t.pixel px py = (s.pixel px py ^^
      s.spriteBit (s.getV x).toNat (s.getV y).toNat n.toNat px py)) ∧
    ((∃ px py, px < 64 ∧ py < 32 ∧ s.pixel px py = true ∧
        s.spriteBit (s.getV x).toNat (s.getV y).toNat n.toNat px py = true) →
      (t.getV vf).toNat = 1) ∧
    ((∀ px py, px < 64 → py < 32 → s.pixel px py = true →
        s.spriteBit (s.getV x).toNat (s.getV y).toNat n.toNat px py = false) →
      (t.getV vf).toNat = 0) ∧
    PcMoved 2 s t ∧ Keeps (· ∈ [.framebuffer, .reg vf, .pc]) s t

/-- R193. Drawing the same sprite at the same position twice restores the framebuffer, and the
second VF is 1 exactly when some 1 bit of the sprite landed on a pixel that was clear at first.
The hypotheses on t' say "same sprite, same position": with X = F or Y = F the first draw has
changed a coordinate register. -/
def Obligations.DrawTwiceRestoresFramebuffer : Prop :=
  ∀ (x y : RegIdx) (n : Nibble) (s : State), ∃ t, exec (.drw x y n) s = .next t ∧
    ∀ t' : State, t'.fb = t.fb → t'.i = s.i → (∀ a, t'.readByte a = s.readByte a) →
      t'.getV x = s.getV x → t'.getV y = s.getV y →
      ∃ u, exec (.drw x y n) t' = .next u ∧ u.fb = s.fb ∧
        ((u.getV vf).toNat = 1 ↔ ∃ px py, px < 64 ∧ py < 32 ∧ s.pixel px py = false ∧
          s.spriteBit (s.getV x).toNat (s.getV y).toNat n.toNat px py = true)

/-! ### Keypad and timers -/

/-- R213, R214, R215. The three timer moves. The wrap of PC is decision D3. -/
def Obligations.TimerMoves : Prop :=
  ∀ (x : RegIdx) (s : State),
    WritesReg (.ldVxDt x) x s.dt s ∧
    (∃ t, exec (.ldDtVx x) s = .next t ∧ t.dt = s.getV x ∧ PcMoved 2 s t ∧
      Keeps (· ∈ [.delayTimer, .pc]) s t) ∧
    (∃ t, exec (.ldStVx x) s = .next t ∧ t.st = s.getV x ∧ PcMoved 2 s t ∧
      Keeps (· ∈ [.soundTimer, .pc]) s t)

/-- R212. `LD Vx, K` with no key down sets WAIT and changes nothing else: PC is held. -/
def Obligations.KeyWaitHoldsWithNoKey : Prop :=
  ∀ (x : RegIdx) (s : State), (∀ k, s.keyDown k = false) →
    ∃ t, exec (.ldVxK x) s = .next t ∧ t.wait = true ∧ Keeps (· = .waitFlag) s t

/-- R212. `LD Vx, K` with k the smallest key down writes k to Vx, clears WAIT and moves on. The level
test and the smallest key are decision D20. -/
def Obligations.KeyWaitTakesLowestKey : Prop :=
  ∀ (x : RegIdx) (k : KeyIdx) (s : State), s.keyDown k = true →
    (∀ j : KeyIdx, j.toNat < k.toNat → s.keyDown j = false) →
    ∃ t, exec (.ldVxK x) s = .next t ∧ (t.getV x).toNat = k.toNat ∧ t.wait = false ∧
      PcMoved 2 s t ∧ Keeps (· ∈ [.reg x, .waitFlag, .pc]) s t

/-- R245. `tick_timers` takes 1 from each timer that is not 0, and touches nothing else. -/
def Obligations.TickCountsEachTimerDown : Prop :=
  ∀ s : State, s.tickTimers.dt.toNat = s.dt.toNat - 1 ∧ s.tickTimers.st.toNat = s.st.toNat - 1 ∧
    Keeps (· ∈ [.delayTimer, .soundTimer]) s s.tickTimers

/-- R246. After t ticks a timer that held n holds max(n − t, 0), and the other parts are as they
were. -/
def Obligations.TimersAfterManyTicks : Prop :=
  ∀ (n : Nat) (s : State), (s.tickTimes n).dt.toNat = s.dt.toNat - n ∧
    (s.tickTimes n).st.toNat = s.st.toNat - n ∧
    Keeps (· ∈ [.delayTimer, .soundTimer]) s (s.tickTimes n)

/-- R215, R246, R247. After `LD ST, Vx` the sound is active for exactly Vx ticks. -/
def Obligations.SoundLastsVxTicks : Prop :=
  ∀ (x : RegIdx) (n : Nat) (s : State), ∃ t, exec (.ldStVx x) s = .next t ∧
    ((t.tickTimes n).soundActive = true ↔ n < (s.getV x).toNat)

/-! ### The step -/

/-- R230. When FAULT is none, PC is even and the two bytes at PC, high byte first, decode to i, then i
is well-formed and the step is exec of i at the same state: PC still holds the instruction's own
address, and the step adds nothing around it. The order of checks is decision D30. -/
def Obligations.StepRunsTheDecodedInstruction : Prop :=
  ∀ (i : Instr) (s : State), s.fault = .none → s.pc.toNat % 2 = 0 →
    decode (wordOfBytes (s.readByte s.pc.toNat) (s.readByte (s.pc.toNat + 1))) = .instr i →
    i.wf = true ∧ step s = exec i s

/-- R62. After two byte stores at an even address a, a fetch at a sees the byte at the lower address
in the high half of the word. -/
def Obligations.FetchIsBigEndian : Prop :=
  ∀ (hi lo : Byte) (s : State), s.pc.toNat % 2 = 0 →
    (((s.writeByte s.pc.toNat hi).writeByte (s.pc.toNat + 1) lo).fetchWord).toNat =
      hi.toNat * 256 + lo.toNat

/-- R251. With a fault latched a step changes nothing and emits no event (decision D5). -/
def Obligations.LatchedFaultStopsTheStep : Prop :=
  ∀ s : State, s.fault ≠ .none → step s = .next s ∧ s.diagnostic = none

/-- R235. A step at an odd PC latches MisalignedPC and does nothing else (decision D5). -/
def Obligations.OddPcFaultsAtFetch : Prop :=
  ∀ s : State, s.fault = .none → s.pc.toNat % 2 = 1 →
    ∃ t, step s = .next t ∧ t.fault = .misalignedPC ∧ Keeps (· = .faultLatch) s t

/-- R236. An unknown opcode: under `skip` PC moves on by 2, the event (pc, op) is emitted and nothing
else happens; under `halt` the fault is latched, PC is held and there is no event. The two
policies are decision D7. -/
def Obligations.UnknownOpcodeFollowsThePolicy : Prop :=
  ∀ (op : Word) (s : State), s.CanFetch → decode s.fetchWord = .unknownOpcode op →
    (s.cfg.unknownOpcodePolicy = .skip →
      (∃ t, step s = .next t ∧ PcMoved 2 s t ∧ Keeps (· = .pc) s t) ∧
        s.diagnostic = some ⟨s.pc, s.fetchWord⟩) ∧
    (s.cfg.unknownOpcodePolicy = .halt →
      (∃ t, step s = .next t ∧ t.fault = .unknownOpcode ∧ Keeps (· = .faultLatch) s t) ∧
        s.diagnostic = none)

/-- R230. Every state has exactly one next state: no instruction and no step ends in a fault or a
refusal of the model. -/
def Obligations.EveryStepHasANextState : Prop :=
  (∀ (i : Instr) (s : State), ∃ t, exec i s = .next t) ∧ ∀ s : State, ∃ t, step s = .next t

/-- R232, R240, R241. A step that latches a fault had none before, writes nothing else, and the cause
is the condition of R231 (decisions D5, D30). -/
def Obligations.FaultsArePrecise : Prop :=
  ∀ s t : State, step s = .next t → t.fault ≠ s.fault →
    s.fault = .none ∧ Keeps (· = .faultLatch) s t ∧ t.FaultExplained

/-- R34, R35. For each part named here, the instructions under which a step may change it: the keypad
never; the framebuffer only by CLS and DRW; the timers only by FX15 and FX18; I only by ANNN, FX1E
and FX29; SP only by CALL and RET and a stack slot only by CALL; a memory byte only by FX33 and
FX55; WAIT only by FX0A (decision D20). The general registers are those of
OnlyDestinationsAndFlagsChange, FAULT that of FaultsArePrecise; PC is not spoken of. Two clauses
are the model's own and no rule's: the parameters never change (assumption 1, DESIGN CHOICE), and
the draw count changes only by RND (assumption 2, DESIGN CHOICE). -/
def Obligations.OnlyTheseInstructionsWriteEachPart : Prop :=
  ∀ s t : State, step s = .next t →
    (∀ k, t.keyDown k = s.keyDown k) ∧ t.cfg = s.cfg ∧
    (t.fb ≠ s.fb → s.About .cls ∨ ∃ x y n, s.About (.drw x y n)) ∧
    (t.dt ≠ s.dt → ∃ x, s.About (.ldDtVx x)) ∧
    (t.st ≠ s.st → ∃ x, s.About (.ldStVx x)) ∧
    (t.i ≠ s.i → (∃ nnn, s.About (.ldI nnn)) ∨ ∃ x, s.About (.addI x) ∨ s.About (.ldF x)) ∧
    (t.sp ≠ s.sp → s.About .ret ∨ ∃ nnn, s.About (.call nnn)) ∧
    (∀ j : Fin 16, t.stack[j] ≠ s.stack[j] → ∃ nnn, s.About (.call nnn)) ∧
    (∀ a, t.readByte a ≠ s.readByte a → ∃ x, s.About (.ldB x) ∨ s.About (.storeRegs x)) ∧
    (t.wait ≠ s.wait → ∃ x, s.About (.ldVxK x)) ∧
    (t.draws ≠ s.draws → ∃ x kk, s.About (.rnd x kk))

/-- R21. A step changes a register only by an instruction that has it as an ordinary destination, or,
for VF alone, by one of the six flag-writing instructions, which leave 0 or 1 there (decisions
D10, D11, D12). -/
def Obligations.OnlyDestinationsAndFlagsChange : Prop :=
  ∀ (r : RegIdx) (s t : State), step s = .next t → t.getV r ≠ s.getV r →
    ∃ i, s.About i ∧
      (i.hasDest r ∨ (r = vf ∧ i.writesFlag ∧ ((t.getV r).toNat = 0 ∨ (t.getV r).toNat = 1)))

/-- R235. From a state of the invariant with an even PC, only JP, CALL and JP V0 make PC odd. -/
def Obligations.OddPcComesFromAJump : Prop :=
  ∀ s t : State, s.Inv → step s = .next t → s.pc.toNat % 2 = 0 → t.pc.toNat % 2 = 1 →
    ∃ nnn, s.About (.jp nnn) ∨ s.About (.call nnn) ∨ s.About (.jpV0 nnn)

/-- R31. After a step that could fetch, WAIT is 1 exactly when that step executed FX0A and found no
key pressed (decision D20). -/
def Obligations.WaitMirrorsTheKeyWait : Prop :=
  ∀ s t : State, s.Inv → s.fault = .none → step s = .next t →
    (t.wait = true ↔ (∃ x, s.About (.ldVxK x)) ∧ ∀ k, s.keyDown k = false)

/-- R284. An idle state, a jump to itself, is left unchanged by a step (decision D34). -/
def Obligations.IdleStateStays : Prop :=
  ∀ s : State, s.Idle → step s = .next s

/-- R72. After a register dump over the two bytes the next fetch reads, that fetch sees the stored
bytes. -/
def Obligations.StoreIsSeenByTheNextFetch : Prop :=
  ∀ (x k l : RegIdx) (s t : State), s.About (.storeRegs x) → step s = .next t →
    l.toNat = k.toNat + 1 → l.toNat ≤ x.toNat →
    s.dataAddr k.toNat % 4096 = (s.pc.toNat + 2) % 4096 →
    t.fetchWord = wordOfBytes (s.getV k) (s.getV l)

/-- R29, R34. Only SKP, SKNP and FX0A read the keypad: any other step acts alike whatever the keypad
holds. Two runs are compared, for the same random byte in both (R151, decision D23): the two steps
of a RND draw the same byte because the model numbers its draws by the state's own counter
(assumption 2, DESIGN CHOICE). -/
def Obligations.OnlyKeyInstructionsReadTheKeypad : Prop :=
  ∀ (k : Vector Bool 16) (s t : State), step s = .next t → (∀ i, s.About i → ¬ i.readsKeys) →
    step (s.setKeys k) = .next (t.setKeys k)

/-- R280, R290. A tick before a step and a tick after it come to the same, unless the step's
instruction reads DT or writes a timer (decisions D2, D27, D28). Two orders are compared, for the
same random byte in both (R151, decision D23): the two steps of a RND draw the same byte because
the model numbers its draws by the state's own counter (assumption 2, DESIGN CHOICE). -/
def Obligations.TickCommutesWithStep : Prop :=
  ∀ s t : State, step s = .next t → (∀ i, s.About i → ¬ i.usesTimers) →
    step s.tickTimers = .next t.tickTimers

/-! ### The invariant -/

/-- R36. The reset state meets the invariant, for every font and both policies. -/
def Obligations.InvariantHoldsAtReset : Prop := ∀ c : Config, (State.resetOf c).Inv

/-- R23, R25, R31, R231. Every step keeps the invariant: memory canonical, PC below 4096, every stack
slot even and below 4096, WAIT only at an FX0A, a latched fault explained by the state. -/
def Obligations.InvariantIsKeptByEveryStep : Prop :=
  ∀ s t : State, s.Inv → step s = .next t → t.Inv

/-- R280. Every finite history of operations, in any interleaving, runs to its end and keeps the
invariant. -/
def Obligations.InvariantIsKeptByEveryHistory : Prop :=
  ∀ (ops : List Operation) (s : State), s.Inv → ∃ t, s.performAll ops = .next t ∧ t.Inv

/-! ### Encoding -/

/-- R92, R93, R95. Decoding the encoding of any instruction gives it back, with every operand; and
the instruction is well-formed. The bit patterns are decision D9. -/
def Obligations.DecodeOfEncode : Prop :=
  ∀ i : Instr, i.wf = true ∧ decode (encode i) = .instr i

/-- R92, R93. A word that decodes to an instruction is that instruction's encoding, so each
instruction has one word; and an unknown opcode is reported with its own word. -/
def Obligations.EncodeOfDecode : Prop :=
  ∀ op : Word, (∀ i, decode op = .instr i → encode i = op) ∧
    ∀ op', decode op = .unknownOpcode op' → op' = op

/-- R93, R95. The decoder is the table: the rows are pairwise disjoint, a word is decoded to an
instruction of the row that selects it, and a word that no row selects is an unknown opcode. The
masks and matches are decision D9. -/
def Obligations.DecoderFollowsTheOpcodeTable : Prop :=
  (∀ op : Word, opcodeTable.Pairwise (fun r q => ¬ (r.selects op = true ∧ q.selects op = true))) ∧
  ∀ op : Word,
    (∀ r ∈ opcodeTable, r.selects op = true → ∃ i, decode op = .instr i ∧ i.row = r) ∧
    ((∀ r ∈ opcodeTable, r.selects op = false) → decode op = .unknownOpcode op)

/-- R91, R96. The numbers that the format checks admit are exactly the instructions: fields that pass
the check decode to the instruction with those fields. The exact match of function fields is
decision D8. -/
def Obligations.WellFormedFieldsDecode : Prop :=
  ∀ f : Fields, f.wf = true → ∃ i, decode (BitVec.ofNat 16 f.number) = .instr i ∧ i.fields = f

/-- R95, R97. A word of each major opcode, written out from R95, decodes to the instruction it stands
for, and four words of R97 are unknown. The patterns are decision D9 but for 00E0, 1NNN, 6XKK and
7XKK. -/
def Obligations.WordsDecodeAsTheTableSays : Prop :=
  decode 0x00E0 = .instr .cls ∧ decode 0x00EE = .instr .ret ∧
  decode 0x1ABC = .instr (.jp 0xABC) ∧ decode 0x3AFF = .instr (.seImm 0xA 0xFF) ∧
  decode 0x8AB7 = .instr (.subnReg 0xA 0xB) ∧ decode 0x9AB0 = .instr (.sneReg 0xA 0xB) ∧
  decode 0xA123 = .instr (.ldI 0x123) ∧ decode 0xDABF = .instr (.drw 0xA 0xB 0xF) ∧
  decode 0xE5A1 = .instr (.sknp 0x5) ∧ decode 0xF265 = .instr (.loadRegs 0x2) ∧
  decode 0x0123 = .unknownOpcode 0x0123 ∧ decode 0x5AB1 = .unknownOpcode 0x5AB1 ∧
  decode 0x8AB8 = .unknownOpcode 0x8AB8 ∧ decode 0xF075 = .unknownOpcode 0xF075

/-! ### Memory and the host's operations -/

/-- R61. Every access is at its address mod 4096. -/
def Obligations.AddressesWrapAt4096 : Prop :=
  ∀ (a : Nat) (b : Byte) (s : State), s.readByte a = s.readByte (a % 4096) ∧
    s.writeByte a b = s.writeByte (a % 4096) b ∧
    s.readByte (4096 + a) = s.readByte a ∧ s.writeByte (4096 + a) b = s.writeByte a b

/-- R66, R70. A read returns the value of the most recent write to its address, and a write changes
nothing else. -/
def Obligations.ReadAfterWrite : Prop :=
  ∀ (a a' : Nat) (b : Byte) (s : State),
    (a' % 4096 = a % 4096 → (s.writeByte a b).readByte a' = b) ∧
    Keeps (fun p => ∃ c, p = .memByte c ∧ c % 4096 = a % 4096) s (s.writeByte a b)

/-- R273. `set_keys` replaces the whole latch and changes nothing else. -/
def Obligations.SetKeysReplacesTheLatch : Prop :=
  ∀ (k : Vector Bool 16) (s : State),
    (∀ j : Fin 16, (s.setKeys k).keyDown (BitVec.ofFin j) = k[j]) ∧
    Keeps (fun p => ∃ j, p = .key j) s (s.setKeys k)

/-- R36, R270. Reset of any machine: every register, the stack, the timers, the pixels, the keys, WAIT
and FAULT are 0, PC is 0x200, and memory is 0 but for the font (decisions D24, D25). That the
parameters stay is the model's own (assumption 1, DESIGN CHOICE). -/
def Obligations.ResetValues : Prop :=
  ∀ s : State, ∃ t, s.perform .reset = .next t ∧
    (∀ r, t.getV r = 0) ∧ t.i = 0 ∧ t.pc.toNat = 0x200 ∧ t.sp.val = 0 ∧
    (∀ j : Fin 16, t.stack[j] = 0) ∧ t.dt = 0 ∧ t.st = 0 ∧
    (∀ px py, px < 64 → py < 32 → t.pixel px py = false) ∧ (∀ k, t.keyDown k = false) ∧
    t.wait = false ∧ t.fault = .none ∧ t.soundActive = false ∧ t.cfg = s.cfg ∧
    (∀ j : Fin 80, t.readByte (0x050 + j.val) = s.cfg.font[j]) ∧
    (∀ a, a < 4096 → a < 0x050 ∨ 0x0A0 ≤ a → t.readByte a = 0)

/-- R271. `load` of a ROM of at most 3584 bytes: the reset state with the ROM's bytes from 0x200
upward. That it re-initialises a machine that has run is decision D25; that the parameters and the
draw count stay is the model's own (assumptions 1 and 2, DESIGN CHOICE). -/
def Obligations.LoadCopiesTheRom : Prop :=
  ∀ (rom : List Byte) (s : State), rom.length ≤ 3584 →
    ∃ t, s.perform (.load rom) = .next t ∧
      (∀ (j : Nat) (h : j < rom.length), t.readByte (0x200 + j) = rom[j]) ∧
      Keeps (fun p => ∃ a, p = .memByte a ∧ 0x200 ≤ a % 4096 ∧ a % 4096 < 0x200 + rom.length)
        s.hostReset t

/-- R272. `load` of a longer ROM reports RomTooLarge and changes no state (decision D25). -/
def Obligations.OversizedRomIsRejected : Prop :=
  ∀ (rom : List Byte) (s : State), 3584 < rom.length →
    s.load rom = .error .romTooLarge ∧ s.perform (.load rom) = .next s
end

