-- ==== Sys2Proof/Laws/State.lean ====
section
/-! SUPPORT. What each update does to each field and to each observation, one lemma each. -/

namespace Sys2Proof.Machine

variable (s : State)

/-! ### setV -/

@[simp] theorem setV_i (r : RegIdx) (b : Byte) : (s.setV r b).i = s.i := rfl
@[simp] theorem setV_pc (r : RegIdx) (b : Byte) : (s.setV r b).pc = s.pc := rfl
@[simp] theorem setV_sp (r : RegIdx) (b : Byte) : (s.setV r b).sp = s.sp := rfl
@[simp] theorem setV_stack (r : RegIdx) (b : Byte) : (s.setV r b).stack = s.stack := rfl
@[simp] theorem setV_dt (r : RegIdx) (b : Byte) : (s.setV r b).dt = s.dt := rfl
@[simp] theorem setV_st (r : RegIdx) (b : Byte) : (s.setV r b).st = s.st := rfl
@[simp] theorem setV_fb (r : RegIdx) (b : Byte) : (s.setV r b).fb = s.fb := rfl
@[simp] theorem setV_keys (r : RegIdx) (b : Byte) : (s.setV r b).keys = s.keys := rfl
@[simp] theorem setV_mem (r : RegIdx) (b : Byte) : (s.setV r b).mem = s.mem := rfl
@[simp] theorem setV_wait (r : RegIdx) (b : Byte) : (s.setV r b).wait = s.wait := rfl
@[simp] theorem setV_fault (r : RegIdx) (b : Byte) : (s.setV r b).fault = s.fault := rfl
@[simp] theorem setV_cfg (r : RegIdx) (b : Byte) : (s.setV r b).cfg = s.cfg := rfl
@[simp] theorem setV_draws (r : RegIdx) (b : Byte) : (s.setV r b).draws = s.draws := rfl
@[simp] theorem setV_readByte (r : RegIdx) (b : Byte) (a' : Nat) : (s.setV r b).readByte a' = s.readByte a' := rfl
@[simp] theorem setV_pixel (r : RegIdx) (b : Byte) (x y : Nat) : (s.setV r b).pixel x y = s.pixel x y := rfl
@[simp] theorem setV_keyDown (r : RegIdx) (b : Byte) (k' : KeyIdx) : (s.setV r b).keyDown k' = s.keyDown k' := rfl
@[simp] theorem setV_fetchWord (r : RegIdx) (b : Byte) : (s.setV r b).fetchWord = s.fetchWord := rfl

/-! ### setI -/

@[simp] theorem setI_v (w : Word) : (s.setI w).v = s.v := rfl
@[simp] theorem setI_i (w : Word) : (s.setI w).i = w := rfl
@[simp] theorem setI_pc (w : Word) : (s.setI w).pc = s.pc := rfl
@[simp] theorem setI_sp (w : Word) : (s.setI w).sp = s.sp := rfl
@[simp] theorem setI_stack (w : Word) : (s.setI w).stack = s.stack := rfl
@[simp] theorem setI_dt (w : Word) : (s.setI w).dt = s.dt := rfl
@[simp] theorem setI_st (w : Word) : (s.setI w).st = s.st := rfl
@[simp] theorem setI_fb (w : Word) : (s.setI w).fb = s.fb := rfl
@[simp] theorem setI_keys (w : Word) : (s.setI w).keys = s.keys := rfl
@[simp] theorem setI_mem (w : Word) : (s.setI w).mem = s.mem := rfl
@[simp] theorem setI_wait (w : Word) : (s.setI w).wait = s.wait := rfl
@[simp] theorem setI_fault (w : Word) : (s.setI w).fault = s.fault := rfl
@[simp] theorem setI_cfg (w : Word) : (s.setI w).cfg = s.cfg := rfl
@[simp] theorem setI_draws (w : Word) : (s.setI w).draws = s.draws := rfl
@[simp] theorem setI_getV (w : Word) (r' : RegIdx) : (s.setI w).getV r' = s.getV r' := rfl
@[simp] theorem setI_readByte (w : Word) (a' : Nat) : (s.setI w).readByte a' = s.readByte a' := rfl
@[simp] theorem setI_pixel (w : Word) (x y : Nat) : (s.setI w).pixel x y = s.pixel x y := rfl
@[simp] theorem setI_keyDown (w : Word) (k' : KeyIdx) : (s.setI w).keyDown k' = s.keyDown k' := rfl
@[simp] theorem setI_fetchWord (w : Word) : (s.setI w).fetchWord = s.fetchWord := rfl

/-! ### setPC -/

@[simp] theorem setPC_v (n : Nat) : (s.setPC n).v = s.v := rfl
@[simp] theorem setPC_i (n : Nat) : (s.setPC n).i = s.i := rfl
@[simp] theorem setPC_pc (n : Nat) : (s.setPC n).pc = BitVec.ofNat 16 (n % 4096) := rfl
@[simp] theorem setPC_sp (n : Nat) : (s.setPC n).sp = s.sp := rfl
@[simp] theorem setPC_stack (n : Nat) : (s.setPC n).stack = s.stack := rfl
@[simp] theorem setPC_dt (n : Nat) : (s.setPC n).dt = s.dt := rfl
@[simp] theorem setPC_st (n : Nat) : (s.setPC n).st = s.st := rfl
@[simp] theorem setPC_fb (n : Nat) : (s.setPC n).fb = s.fb := rfl
@[simp] theorem setPC_keys (n : Nat) : (s.setPC n).keys = s.keys := rfl
@[simp] theorem setPC_mem (n : Nat) : (s.setPC n).mem = s.mem := rfl
@[simp] theorem setPC_wait (n : Nat) : (s.setPC n).wait = s.wait := rfl
@[simp] theorem setPC_fault (n : Nat) : (s.setPC n).fault = s.fault := rfl
@[simp] theorem setPC_cfg (n : Nat) : (s.setPC n).cfg = s.cfg := rfl
@[simp] theorem setPC_draws (n : Nat) : (s.setPC n).draws = s.draws := rfl
@[simp] theorem setPC_getV (n : Nat) (r' : RegIdx) : (s.setPC n).getV r' = s.getV r' := rfl
@[simp] theorem setPC_readByte (n : Nat) (a' : Nat) : (s.setPC n).readByte a' = s.readByte a' := rfl
@[simp] theorem setPC_pixel (n : Nat) (x y : Nat) : (s.setPC n).pixel x y = s.pixel x y := rfl
@[simp] theorem setPC_keyDown (n : Nat) (k' : KeyIdx) : (s.setPC n).keyDown k' = s.keyDown k' := rfl

/-! ### setDT -/

@[simp] theorem setDT_v (b : Byte) : (s.setDT b).v = s.v := rfl
@[simp] theorem setDT_i (b : Byte) : (s.setDT b).i = s.i := rfl
@[simp] theorem setDT_pc (b : Byte) : (s.setDT b).pc = s.pc := rfl
@[simp] theorem setDT_sp (b : Byte) : (s.setDT b).sp = s.sp := rfl
@[simp] theorem setDT_stack (b : Byte) : (s.setDT b).stack = s.stack := rfl
@[simp] theorem setDT_dt (b : Byte) : (s.setDT b).dt = b := rfl
@[simp] theorem setDT_st (b : Byte) : (s.setDT b).st = s.st := rfl
@[simp] theorem setDT_fb (b : Byte) : (s.setDT b).fb = s.fb := rfl
@[simp] theorem setDT_keys (b : Byte) : (s.setDT b).keys = s.keys := rfl
@[simp] theorem setDT_mem (b : Byte) : (s.setDT b).mem = s.mem := rfl
@[simp] theorem setDT_wait (b : Byte) : (s.setDT b).wait = s.wait := rfl
@[simp] theorem setDT_fault (b : Byte) : (s.setDT b).fault = s.fault := rfl
@[simp] theorem setDT_cfg (b : Byte) : (s.setDT b).cfg = s.cfg := rfl
@[simp] theorem setDT_draws (b : Byte) : (s.setDT b).draws = s.draws := rfl
@[simp] theorem setDT_getV (b : Byte) (r' : RegIdx) : (s.setDT b).getV r' = s.getV r' := rfl
@[simp] theorem setDT_readByte (b : Byte) (a' : Nat) : (s.setDT b).readByte a' = s.readByte a' := rfl
@[simp] theorem setDT_pixel (b : Byte) (x y : Nat) : (s.setDT b).pixel x y = s.pixel x y := rfl
@[simp] theorem setDT_keyDown (b : Byte) (k' : KeyIdx) : (s.setDT b).keyDown k' = s.keyDown k' := rfl
@[simp] theorem setDT_fetchWord (b : Byte) : (s.setDT b).fetchWord = s.fetchWord := rfl

/-! ### setST -/

@[simp] theorem setST_v (b : Byte) : (s.setST b).v = s.v := rfl
@[simp] theorem setST_i (b : Byte) : (s.setST b).i = s.i := rfl
@[simp] theorem setST_pc (b : Byte) : (s.setST b).pc = s.pc := rfl
@[simp] theorem setST_sp (b : Byte) : (s.setST b).sp = s.sp := rfl
@[simp] theorem setST_stack (b : Byte) : (s.setST b).stack = s.stack := rfl
@[simp] theorem setST_dt (b : Byte) : (s.setST b).dt = s.dt := rfl
@[simp] theorem setST_st (b : Byte) : (s.setST b).st = b := rfl
@[simp] theorem setST_fb (b : Byte) : (s.setST b).fb = s.fb := rfl
@[simp] theorem setST_keys (b : Byte) : (s.setST b).keys = s.keys := rfl
@[simp] theorem setST_mem (b : Byte) : (s.setST b).mem = s.mem := rfl
@[simp] theorem setST_wait (b : Byte) : (s.setST b).wait = s.wait := rfl
@[simp] theorem setST_fault (b : Byte) : (s.setST b).fault = s.fault := rfl
@[simp] theorem setST_cfg (b : Byte) : (s.setST b).cfg = s.cfg := rfl
@[simp] theorem setST_draws (b : Byte) : (s.setST b).draws = s.draws := rfl
@[simp] theorem setST_getV (b : Byte) (r' : RegIdx) : (s.setST b).getV r' = s.getV r' := rfl
@[simp] theorem setST_readByte (b : Byte) (a' : Nat) : (s.setST b).readByte a' = s.readByte a' := rfl
@[simp] theorem setST_pixel (b : Byte) (x y : Nat) : (s.setST b).pixel x y = s.pixel x y := rfl
@[simp] theorem setST_keyDown (b : Byte) (k' : KeyIdx) : (s.setST b).keyDown k' = s.keyDown k' := rfl
@[simp] theorem setST_fetchWord (b : Byte) : (s.setST b).fetchWord = s.fetchWord := rfl

/-! ### setFB -/

@[simp] theorem setFB_v (f : FrameBuffer) : (s.setFB f).v = s.v := rfl
@[simp] theorem setFB_i (f : FrameBuffer) : (s.setFB f).i = s.i := rfl
@[simp] theorem setFB_pc (f : FrameBuffer) : (s.setFB f).pc = s.pc := rfl
@[simp] theorem setFB_sp (f : FrameBuffer) : (s.setFB f).sp = s.sp := rfl
@[simp] theorem setFB_stack (f : FrameBuffer) : (s.setFB f).stack = s.stack := rfl
@[simp] theorem setFB_dt (f : FrameBuffer) : (s.setFB f).dt = s.dt := rfl
@[simp] theorem setFB_st (f : FrameBuffer) : (s.setFB f).st = s.st := rfl
@[simp] theorem setFB_fb (f : FrameBuffer) : (s.setFB f).fb = f := rfl
@[simp] theorem setFB_keys (f : FrameBuffer) : (s.setFB f).keys = s.keys := rfl
@[simp] theorem setFB_mem (f : FrameBuffer) : (s.setFB f).mem = s.mem := rfl
@[simp] theorem setFB_wait (f : FrameBuffer) : (s.setFB f).wait = s.wait := rfl
@[simp] theorem setFB_fault (f : FrameBuffer) : (s.setFB f).fault = s.fault := rfl
@[simp] theorem setFB_cfg (f : FrameBuffer) : (s.setFB f).cfg = s.cfg := rfl
@[simp] theorem setFB_draws (f : FrameBuffer) : (s.setFB f).draws = s.draws := rfl
@[simp] theorem setFB_getV (f : FrameBuffer) (r' : RegIdx) : (s.setFB f).getV r' = s.getV r' := rfl
@[simp] theorem setFB_readByte (f : FrameBuffer) (a' : Nat) : (s.setFB f).readByte a' = s.readByte a' := rfl
@[simp] theorem setFB_keyDown (f : FrameBuffer) (k' : KeyIdx) : (s.setFB f).keyDown k' = s.keyDown k' := rfl
@[simp] theorem setFB_fetchWord (f : FrameBuffer) : (s.setFB f).fetchWord = s.fetchWord := rfl

/-! ### setWait -/

@[simp] theorem setWait_v (b : Bool) : (s.setWait b).v = s.v := rfl
@[simp] theorem setWait_i (b : Bool) : (s.setWait b).i = s.i := rfl
@[simp] theorem setWait_pc (b : Bool) : (s.setWait b).pc = s.pc := rfl
@[simp] theorem setWait_sp (b : Bool) : (s.setWait b).sp = s.sp := rfl
@[simp] theorem setWait_stack (b : Bool) : (s.setWait b).stack = s.stack := rfl
@[simp] theorem setWait_dt (b : Bool) : (s.setWait b).dt = s.dt := rfl
@[simp] theorem setWait_st (b : Bool) : (s.setWait b).st = s.st := rfl
@[simp] theorem setWait_fb (b : Bool) : (s.setWait b).fb = s.fb := rfl
@[simp] theorem setWait_keys (b : Bool) : (s.setWait b).keys = s.keys := rfl
@[simp] theorem setWait_mem (b : Bool) : (s.setWait b).mem = s.mem := rfl
@[simp] theorem setWait_wait (b : Bool) : (s.setWait b).wait = b := rfl
@[simp] theorem setWait_fault (b : Bool) : (s.setWait b).fault = s.fault := rfl
@[simp] theorem setWait_cfg (b : Bool) : (s.setWait b).cfg = s.cfg := rfl
@[simp] theorem setWait_draws (b : Bool) : (s.setWait b).draws = s.draws := rfl
@[simp] theorem setWait_getV (b : Bool) (r' : RegIdx) : (s.setWait b).getV r' = s.getV r' := rfl
@[simp] theorem setWait_readByte (b : Bool) (a' : Nat) : (s.setWait b).readByte a' = s.readByte a' := rfl
@[simp] theorem setWait_pixel (b : Bool) (x y : Nat) : (s.setWait b).pixel x y = s.pixel x y := rfl
@[simp] theorem setWait_keyDown (b : Bool) (k' : KeyIdx) : (s.setWait b).keyDown k' = s.keyDown k' := rfl
@[simp] theorem setWait_fetchWord (b : Bool) : (s.setWait b).fetchWord = s.fetchWord := rfl

/-! ### countDraw -/

@[simp] theorem countDraw_v : (s.countDraw).v = s.v := rfl
@[simp] theorem countDraw_i : (s.countDraw).i = s.i := rfl
@[simp] theorem countDraw_pc : (s.countDraw).pc = s.pc := rfl
@[simp] theorem countDraw_sp : (s.countDraw).sp = s.sp := rfl
@[simp] theorem countDraw_stack : (s.countDraw).stack = s.stack := rfl
@[simp] theorem countDraw_dt : (s.countDraw).dt = s.dt := rfl
@[simp] theorem countDraw_st : (s.countDraw).st = s.st := rfl
@[simp] theorem countDraw_fb : (s.countDraw).fb = s.fb := rfl
@[simp] theorem countDraw_keys : (s.countDraw).keys = s.keys := rfl
@[simp] theorem countDraw_mem : (s.countDraw).mem = s.mem := rfl
@[simp] theorem countDraw_wait : (s.countDraw).wait = s.wait := rfl
@[simp] theorem countDraw_fault : (s.countDraw).fault = s.fault := rfl
@[simp] theorem countDraw_cfg : (s.countDraw).cfg = s.cfg := rfl
@[simp] theorem countDraw_draws : (s.countDraw).draws = s.draws + 1 := rfl
@[simp] theorem countDraw_getV (r' : RegIdx) : (s.countDraw).getV r' = s.getV r' := rfl
@[simp] theorem countDraw_readByte (a' : Nat) : (s.countDraw).readByte a' = s.readByte a' := rfl
@[simp] theorem countDraw_pixel (x y : Nat) : (s.countDraw).pixel x y = s.pixel x y := rfl
@[simp] theorem countDraw_keyDown (k' : KeyIdx) : (s.countDraw).keyDown k' = s.keyDown k' := rfl
@[simp] theorem countDraw_fetchWord : (s.countDraw).fetchWord = s.fetchWord := rfl

/-! ### raiseFatal -/

@[simp] theorem raiseFatal_v (c : FaultCause) : (s.raiseFatal c).v = s.v := rfl
@[simp] theorem raiseFatal_i (c : FaultCause) : (s.raiseFatal c).i = s.i := rfl
@[simp] theorem raiseFatal_pc (c : FaultCause) : (s.raiseFatal c).pc = s.pc := rfl
@[simp] theorem raiseFatal_sp (c : FaultCause) : (s.raiseFatal c).sp = s.sp := rfl
@[simp] theorem raiseFatal_stack (c : FaultCause) : (s.raiseFatal c).stack = s.stack := rfl
@[simp] theorem raiseFatal_dt (c : FaultCause) : (s.raiseFatal c).dt = s.dt := rfl
@[simp] theorem raiseFatal_st (c : FaultCause) : (s.raiseFatal c).st = s.st := rfl
@[simp] theorem raiseFatal_fb (c : FaultCause) : (s.raiseFatal c).fb = s.fb := rfl
@[simp] theorem raiseFatal_keys (c : FaultCause) : (s.raiseFatal c).keys = s.keys := rfl
@[simp] theorem raiseFatal_mem (c : FaultCause) : (s.raiseFatal c).mem = s.mem := rfl
@[simp] theorem raiseFatal_wait (c : FaultCause) : (s.raiseFatal c).wait = s.wait := rfl
@[simp] theorem raiseFatal_fault (c : FaultCause) : (s.raiseFatal c).fault = c := rfl
@[simp] theorem raiseFatal_cfg (c : FaultCause) : (s.raiseFatal c).cfg = s.cfg := rfl
@[simp] theorem raiseFatal_draws (c : FaultCause) : (s.raiseFatal c).draws = s.draws := rfl
@[simp] theorem raiseFatal_getV (c : FaultCause) (r' : RegIdx) : (s.raiseFatal c).getV r' = s.getV r' := rfl
@[simp] theorem raiseFatal_readByte (c : FaultCause) (a' : Nat) : (s.raiseFatal c).readByte a' = s.readByte a' := rfl
@[simp] theorem raiseFatal_pixel (c : FaultCause) (x y : Nat) : (s.raiseFatal c).pixel x y = s.pixel x y := rfl
@[simp] theorem raiseFatal_keyDown (c : FaultCause) (k' : KeyIdx) : (s.raiseFatal c).keyDown k' = s.keyDown k' := rfl
@[simp] theorem raiseFatal_fetchWord (c : FaultCause) : (s.raiseFatal c).fetchWord = s.fetchWord := rfl

/-! ### writeByte -/

@[simp] theorem writeByte_v (a : Nat) (b : Byte) : (s.writeByte a b).v = s.v := rfl
@[simp] theorem writeByte_i (a : Nat) (b : Byte) : (s.writeByte a b).i = s.i := rfl
@[simp] theorem writeByte_pc (a : Nat) (b : Byte) : (s.writeByte a b).pc = s.pc := rfl
@[simp] theorem writeByte_sp (a : Nat) (b : Byte) : (s.writeByte a b).sp = s.sp := rfl
@[simp] theorem writeByte_stack (a : Nat) (b : Byte) : (s.writeByte a b).stack = s.stack := rfl
@[simp] theorem writeByte_dt (a : Nat) (b : Byte) : (s.writeByte a b).dt = s.dt := rfl
@[simp] theorem writeByte_st (a : Nat) (b : Byte) : (s.writeByte a b).st = s.st := rfl
@[simp] theorem writeByte_fb (a : Nat) (b : Byte) : (s.writeByte a b).fb = s.fb := rfl
@[simp] theorem writeByte_keys (a : Nat) (b : Byte) : (s.writeByte a b).keys = s.keys := rfl
@[simp] theorem writeByte_mem (a : Nat) (b : Byte) : (s.writeByte a b).mem = Memory.write s.cfg s.mem (a % 4096) b := rfl
@[simp] theorem writeByte_wait (a : Nat) (b : Byte) : (s.writeByte a b).wait = s.wait := rfl
@[simp] theorem writeByte_fault (a : Nat) (b : Byte) : (s.writeByte a b).fault = s.fault := rfl
@[simp] theorem writeByte_cfg (a : Nat) (b : Byte) : (s.writeByte a b).cfg = s.cfg := rfl
@[simp] theorem writeByte_draws (a : Nat) (b : Byte) : (s.writeByte a b).draws = s.draws := rfl
@[simp] theorem writeByte_getV (a : Nat) (b : Byte) (r' : RegIdx) : (s.writeByte a b).getV r' = s.getV r' := rfl
@[simp] theorem writeByte_pixel (a : Nat) (b : Byte) (x y : Nat) : (s.writeByte a b).pixel x y = s.pixel x y := rfl
@[simp] theorem writeByte_keyDown (a : Nat) (b : Byte) (k' : KeyIdx) : (s.writeByte a b).keyDown k' = s.keyDown k' := rfl

/-! ### advance -/

@[simp] theorem advance_v : (s.advance).v = s.v := rfl
@[simp] theorem advance_i : (s.advance).i = s.i := rfl
@[simp] theorem advance_pc : (s.advance).pc = BitVec.ofNat 16 ((s.pc.toNat + 2) % 4096) := rfl
@[simp] theorem advance_sp : (s.advance).sp = s.sp := rfl
@[simp] theorem advance_stack : (s.advance).stack = s.stack := rfl
@[simp] theorem advance_dt : (s.advance).dt = s.dt := rfl
@[simp] theorem advance_st : (s.advance).st = s.st := rfl
@[simp] theorem advance_fb : (s.advance).fb = s.fb := rfl
@[simp] theorem advance_keys : (s.advance).keys = s.keys := rfl
@[simp] theorem advance_mem : (s.advance).mem = s.mem := rfl
@[simp] theorem advance_wait : (s.advance).wait = s.wait := rfl
@[simp] theorem advance_fault : (s.advance).fault = s.fault := rfl
@[simp] theorem advance_cfg : (s.advance).cfg = s.cfg := rfl
@[simp] theorem advance_draws : (s.advance).draws = s.draws := rfl
@[simp] theorem advance_getV (r' : RegIdx) : (s.advance).getV r' = s.getV r' := rfl
@[simp] theorem advance_readByte (a' : Nat) : (s.advance).readByte a' = s.readByte a' := rfl
@[simp] theorem advance_pixel (x y : Nat) : (s.advance).pixel x y = s.pixel x y := rfl
@[simp] theorem advance_keyDown (k' : KeyIdx) : (s.advance).keyDown k' = s.keyDown k' := rfl

/-! ### skipNext -/

@[simp] theorem skipNext_v : (s.skipNext).v = s.v := rfl
@[simp] theorem skipNext_i : (s.skipNext).i = s.i := rfl
@[simp] theorem skipNext_pc : (s.skipNext).pc = BitVec.ofNat 16 ((s.pc.toNat + 4) % 4096) := rfl
@[simp] theorem skipNext_sp : (s.skipNext).sp = s.sp := rfl
@[simp] theorem skipNext_stack : (s.skipNext).stack = s.stack := rfl
@[simp] theorem skipNext_dt : (s.skipNext).dt = s.dt := rfl
@[simp] theorem skipNext_st : (s.skipNext).st = s.st := rfl
@[simp] theorem skipNext_fb : (s.skipNext).fb = s.fb := rfl
@[simp] theorem skipNext_keys : (s.skipNext).keys = s.keys := rfl
@[simp] theorem skipNext_mem : (s.skipNext).mem = s.mem := rfl
@[simp] theorem skipNext_wait : (s.skipNext).wait = s.wait := rfl
@[simp] theorem skipNext_fault : (s.skipNext).fault = s.fault := rfl
@[simp] theorem skipNext_cfg : (s.skipNext).cfg = s.cfg := rfl
@[simp] theorem skipNext_draws : (s.skipNext).draws = s.draws := rfl
@[simp] theorem skipNext_getV (r' : RegIdx) : (s.skipNext).getV r' = s.getV r' := rfl
@[simp] theorem skipNext_readByte (a' : Nat) : (s.skipNext).readByte a' = s.readByte a' := rfl
@[simp] theorem skipNext_pixel (x y : Nat) : (s.skipNext).pixel x y = s.pixel x y := rfl
@[simp] theorem skipNext_keyDown (k' : KeyIdx) : (s.skipNext).keyDown k' = s.keyDown k' := rfl

/-! ### tickTimers -/

@[simp] theorem tickTimers_v : (s.tickTimers).v = s.v := rfl
@[simp] theorem tickTimers_i : (s.tickTimers).i = s.i := rfl
@[simp] theorem tickTimers_pc : (s.tickTimers).pc = s.pc := rfl
@[simp] theorem tickTimers_sp : (s.tickTimers).sp = s.sp := rfl
@[simp] theorem tickTimers_stack : (s.tickTimers).stack = s.stack := rfl
@[simp] theorem tickTimers_dt : (s.tickTimers).dt = countDown s.dt := rfl
@[simp] theorem tickTimers_st : (s.tickTimers).st = countDown s.st := rfl
@[simp] theorem tickTimers_fb : (s.tickTimers).fb = s.fb := rfl
@[simp] theorem tickTimers_keys : (s.tickTimers).keys = s.keys := rfl
@[simp] theorem tickTimers_mem : (s.tickTimers).mem = s.mem := rfl
@[simp] theorem tickTimers_wait : (s.tickTimers).wait = s.wait := rfl
@[simp] theorem tickTimers_fault : (s.tickTimers).fault = s.fault := rfl
@[simp] theorem tickTimers_cfg : (s.tickTimers).cfg = s.cfg := rfl
@[simp] theorem tickTimers_draws : (s.tickTimers).draws = s.draws := rfl
@[simp] theorem tickTimers_getV (r' : RegIdx) : (s.tickTimers).getV r' = s.getV r' := rfl
@[simp] theorem tickTimers_readByte (a' : Nat) : (s.tickTimers).readByte a' = s.readByte a' := rfl
@[simp] theorem tickTimers_pixel (x y : Nat) : (s.tickTimers).pixel x y = s.pixel x y := rfl
@[simp] theorem tickTimers_keyDown (k' : KeyIdx) : (s.tickTimers).keyDown k' = s.keyDown k' := rfl
@[simp] theorem tickTimers_fetchWord : (s.tickTimers).fetchWord = s.fetchWord := rfl

/-! ### setKeys -/

@[simp] theorem setKeys_v (k : Vector Bool 16) : (s.setKeys k).v = s.v := rfl
@[simp] theorem setKeys_i (k : Vector Bool 16) : (s.setKeys k).i = s.i := rfl
@[simp] theorem setKeys_pc (k : Vector Bool 16) : (s.setKeys k).pc = s.pc := rfl
@[simp] theorem setKeys_sp (k : Vector Bool 16) : (s.setKeys k).sp = s.sp := rfl
@[simp] theorem setKeys_stack (k : Vector Bool 16) : (s.setKeys k).stack = s.stack := rfl
@[simp] theorem setKeys_dt (k : Vector Bool 16) : (s.setKeys k).dt = s.dt := rfl
@[simp] theorem setKeys_st (k : Vector Bool 16) : (s.setKeys k).st = s.st := rfl
@[simp] theorem setKeys_fb (k : Vector Bool 16) : (s.setKeys k).fb = s.fb := rfl
@[simp] theorem setKeys_keys (k : Vector Bool 16) : (s.setKeys k).keys = k := rfl
@[simp] theorem setKeys_mem (k : Vector Bool 16) : (s.setKeys k).mem = s.mem := rfl
@[simp] theorem setKeys_wait (k : Vector Bool 16) : (s.setKeys k).wait = s.wait := rfl
@[simp] theorem setKeys_fault (k : Vector Bool 16) : (s.setKeys k).fault = s.fault := rfl
@[simp] theorem setKeys_cfg (k : Vector Bool 16) : (s.setKeys k).cfg = s.cfg := rfl
@[simp] theorem setKeys_draws (k : Vector Bool 16) : (s.setKeys k).draws = s.draws := rfl
@[simp] theorem setKeys_getV (k : Vector Bool 16) (r' : RegIdx) : (s.setKeys k).getV r' = s.getV r' := rfl
@[simp] theorem setKeys_readByte (k : Vector Bool 16) (a' : Nat) : (s.setKeys k).readByte a' = s.readByte a' := rfl
@[simp] theorem setKeys_pixel (k : Vector Bool 16) (x y : Nat) : (s.setKeys k).pixel x y = s.pixel x y := rfl
@[simp] theorem setKeys_fetchWord (k : Vector Bool 16) : (s.setKeys k).fetchWord = s.fetchWord := rfl

end Sys2Proof.Machine
end

