-- ==== Sys2Proof/Laws/Memory.lean ====
section
/-! SUPPORT. Memory: a read after a write, and the canonical form kept by every operation. -/

namespace Sys2Proof.Machine

/-! ### Read after write -/

theorem read_erase_same (c : Config) (m : Memory) (a : Nat) :
    Memory.read c (Memory.erase m a) a = Memory.unlisted c a := by
  induction m with
  | nil => rfl
  | cons cell rest ih =>
    simp only [Memory.erase, List.filter_cons] at ih ⊢
    by_cases h : cell.1 = a
    · simpa [h] using ih
    · simpa [h, Memory.read] using ih

theorem read_erase_ne (c : Config) (m : Memory) {a a' : Nat} (h : a' ≠ a) :
    Memory.read c (Memory.erase m a) a' = Memory.read c m a' := by
  induction m with
  | nil => rfl
  | cons cell rest ih =>
    simp only [Memory.erase, List.filter_cons] at ih ⊢
    by_cases h1 : cell.1 = a
    · have h2 : cell.1 ≠ a' := fun e => h (e.symm.trans h1)
      simpa [h1, Memory.read, Ne.symm h] using ih
    · have hb : (cell.1 != a) = true := by simpa using h1
      rw [if_pos hb]
      simp only [Memory.read, ih]

theorem read_insert_same (c : Config) (m : Memory) (a : Nat) (b : Byte)
    (h : ∀ cell ∈ m, cell.1 ≠ a) : Memory.read c (Memory.insertCell (a, b) m) a = b := by
  induction m with
  | nil => simp [Memory.insertCell, Memory.read]
  | cons cell rest ih =>
    simp only [Memory.insertCell]
    split
    · simp [Memory.read]
    · have h1 : cell.1 ≠ a := h cell (by simp)
      simpa [Memory.read, h1] using ih (fun d hd => h d (by simp [hd]))

theorem read_insert_ne (c : Config) (m : Memory) {a a' : Nat} (b : Byte) (h : a' ≠ a) :
    Memory.read c (Memory.insertCell (a, b) m) a' = Memory.read c m a' := by
  induction m with
  | nil => simp [Memory.insertCell, Memory.read, Ne.symm h]
  | cons cell rest ih =>
    simp only [Memory.insertCell]
    split
    · simp [Memory.read, Ne.symm h]
    · by_cases h1 : cell.1 = a' <;> simp [Memory.read, h1, ih]

theorem erase_no_address (m : Memory) (a : Nat) : ∀ cell ∈ Memory.erase m a, cell.1 ≠ a := by
  intro cell h
  simpa [Memory.erase] using (List.mem_filter.mp h).2

/-- What every address reads as after one is written. -/
theorem read_write (c : Config) (m : Memory) (a a' : Nat) (b : Byte) :
    Memory.read c (Memory.write c m a b) a' = if a' = a then b else Memory.read c m a' := by
  unfold Memory.write
  by_cases h : a' = a
  · subst h
    by_cases hb : b = Memory.unlisted c a'
    · simp [← hb, read_erase_same]
    · simp [hb, read_insert_same c _ a' b (erase_no_address m a')]
  · by_cases hb : b = Memory.unlisted c a
    · simp [← hb, h, read_erase_ne c m h]
    · simp [hb, h, read_insert_ne c _ b h, read_erase_ne c m h]

/-- `MemRead` after `MemWrite` (R9, R61, R66). -/
theorem writeByte_readByte (s : State) (a a' : Nat) (b : Byte) :
    (s.writeByte a b).readByte a' = if a' % 4096 = a % 4096 then b else s.readByte a' := by
  simp [State.readByte, read_write]

@[simp] theorem readByte_mod (s : State) (a : Nat) : s.readByte (a % 4096) = s.readByte a := by
  simp [State.readByte]

@[simp] theorem writeByte_mod (s : State) (a : Nat) (b : Byte) :
    s.writeByte (a % 4096) b = s.writeByte a b := by
  simp [State.writeByte]

theorem readByte_congr (s : State) {a a' : Nat} (h : a % 4096 = a' % 4096) :
    s.readByte a = s.readByte a' := by
  rw [← readByte_mod s a, h, readByte_mod]

/-! ### The canonical form -/

theorem wf_iff (c : Config) (m : Memory) : Memory.wf c m = true ↔
    m.Pairwise (fun p q => p.1 < q.1) ∧
      ∀ cell ∈ m, cell.1 < 4096 ∧ cell.2 ≠ Memory.unlisted c cell.1 := by
  simp [Memory.wf]

theorem mem_insertCell {cell d : Host.Cell} {m : Memory} :
    d ∈ Memory.insertCell cell m ↔ d = cell ∨ d ∈ m := by
  induction m with
  | nil => simp [Memory.insertCell]
  | cons first rest ih =>
    simp only [Memory.insertCell]
    split
    · simp
    · simp [ih, or_left_comm]

theorem pairwise_insertCell {cell : Host.Cell} {m : Memory}
    (h : m.Pairwise (fun p q => p.1 < q.1)) (hn : ∀ d ∈ m, d.1 ≠ cell.1) :
    (Memory.insertCell cell m).Pairwise (fun p q => p.1 < q.1) := by
  induction m with
  | nil => simp [Memory.insertCell]
  | cons first rest ih =>
    have hp := List.pairwise_cons.mp h
    simp only [Memory.insertCell]
    split
    · rename_i hlt
      refine List.pairwise_cons.mpr ⟨fun d hd => ?_, h⟩
      rcases List.mem_cons.mp hd with rfl | hd
      · exact hlt
      · exact Nat.lt_trans hlt (hp.1 d hd)
    · rename_i hge
      have hne : first.1 ≠ cell.1 := hn first (by simp)
      refine List.pairwise_cons.mpr ⟨fun d hd => ?_, ih hp.2 (fun d hd => hn d (by simp [hd]))⟩
      rcases mem_insertCell.mp hd with rfl | hd
      · omega
      · exact hp.1 d hd

theorem wf_nil (c : Config) : Memory.wf c [] = true := rfl

theorem wf_erase {c : Config} {m : Memory} (a : Nat) (h : Memory.wf c m = true) :
    Memory.wf c (Memory.erase m a) = true := by
  rw [wf_iff] at h ⊢
  exact ⟨h.1.sublist List.filter_sublist, fun d hd => h.2 d (List.mem_of_mem_filter hd)⟩

/-- A write keeps the canonical form. -/
theorem wf_write {c : Config} {m : Memory} {a : Nat} (b : Byte) (ha : a < 4096)
    (h : Memory.wf c m = true) : Memory.wf c (Memory.write c m a b) = true := by
  unfold Memory.write
  split
  · exact wf_erase a h
  · rename_i hb
    have he := (wf_iff c _).mp (wf_erase a h)
    refine (wf_iff c _).mpr ⟨pairwise_insertCell he.1 (erase_no_address m a), fun d hd => ?_⟩
    rcases mem_insertCell.mp hd with rfl | hd
    · exact ⟨ha, hb⟩
    · exact he.2 d hd

/-- A store keeps the canonical form. -/
theorem writeByte_wf {s : State} (a : Nat) (b : Byte) (h : Memory.wf s.cfg s.mem = true) :
    Memory.wf (s.writeByte a b).cfg (s.writeByte a b).mem = true :=
  wf_write b (Nat.mod_lt a (by decide)) h

theorem storeBlock_cfg (s : State) (n : Nat) : (s.storeBlock n).cfg = s.cfg := by
  induction n with
  | zero => rfl
  | succ n ih => simpa [State.storeBlock] using ih

/-- A register dump keeps the canonical form. -/
theorem storeBlock_wf {s : State} (n : Nat) (h : Memory.wf s.cfg s.mem = true) :
    Memory.wf (s.storeBlock n).cfg (s.storeBlock n).mem = true := by
  induction n with
  | zero => exact h
  | succ n ih => exact writeByte_wf _ _ ih

/-- The digit stores keep the canonical form. -/
theorem storeDigits_wf {s : State} (b : Byte) (h : Memory.wf s.cfg s.mem = true) :
    Memory.wf (s.storeDigits b).cfg (s.storeDigits b).mem = true :=
  writeByte_wf _ _ (writeByte_wf _ _ (writeByte_wf _ _ h))

/-- A ROM copy keeps the canonical form. -/
theorem copyBytes_wf (rom : List Byte) {s : State} (a : Nat)
    (h : Memory.wf s.cfg s.mem = true) :
    Memory.wf (s.copyBytes a rom).cfg (s.copyBytes a rom).mem = true := by
  induction rom generalizing s a with
  | nil => exact h
  | cons b rest ih => exact ih (a + 1) (writeByte_wf _ _ h)

theorem reset_wf (c : Config) : Memory.wf (State.resetOf c).cfg (State.resetOf c).mem = true := rfl

end Sys2Proof.Machine
end

