-- ==== Sys2Proof/Laws/Registers.lean ====
section
/-! SUPPORT. Reading a register after a write (R20), and the flag write (R21, R153). -/

namespace Sys2Proof.Machine

/-- What every register holds after one is written. -/
theorem setV_getV (s : State) (r r' : RegIdx) (b : Byte) :
    (s.setV r b).getV r' = if r' = r then b else s.getV r' := by
  simp only [State.getV, State.setV, Vector.getElem_set]
  by_cases h : r = r'
  · subst h; simp
  · have h1 : r.toNat ≠ r'.toNat := fun e => h (BitVec.eq_of_toNat_eq e)
    simp [h1, Ne.symm h]

@[simp] theorem setV_getV_same (s : State) (r : RegIdx) (b : Byte) :
    (s.setV r b).getV r = b := by simp [setV_getV]

@[simp] theorem setV_getV_ne (s : State) {r r' : RegIdx} (b : Byte) (h : r' ≠ r) :
    (s.setV r b).getV r' = s.getV r' := by simp [setV_getV, h]

theorem setFlag_eq (s : State) (f : Bool) : s.setFlag f = s.setV vf (flagByte f) := rfl

@[simp] theorem flagByte_true : (flagByte true).toNat = 1 := rfl
@[simp] theorem flagByte_false : (flagByte false).toNat = 0 := rfl

end Sys2Proof.Machine
end

