-- ==== Sys2Proof/Laws/Frame.lean ====
section
/-! SUPPORT. The frame of each update, and how frames combine. -/

namespace Sys2Proof.Machine

theorem Keeps.refl (w : Part → Prop) (s : State) : Keeps w s s := fun p _ => by cases p <;> rfl

theorem Keeps.mono {w w' : Part → Prop} {s t : State} (h : Keeps w s t)
    (hw : ∀ p, w p → w' p) : Keeps w' s t := fun p hp => h p (fun h => hp (hw p h))

theorem Part.same_trans {s t u : State} (p : Part) (h1 : p.same s t) (h2 : p.same t u) :
    p.same s u := by
  cases p <;> exact Eq.trans h2 h1

/-- Two updates in a row keep what both keep. -/
theorem Keeps.trans {w w' : Part → Prop} {s t u : State} (h : Keeps w s t) (h' : Keeps w' t u) :
    Keeps (fun p => w p ∨ w' p) s u :=
  fun p hp => p.same_trans (h p (fun h => hp (.inl h))) (h' p (fun h => hp (.inr h)))

/-- Two updates in a row under one frame. -/
theorem Keeps.comp {w : Part → Prop} {s t u : State} (h : Keeps w s t) (h' : Keeps w t u) :
    Keeps w s u := (h.trans h').mono (fun _ h => h.elim id id)

theorem setV_keeps (s : State) (r : RegIdx) (b : Byte) : Keeps (· = .reg r) s (s.setV r b) := by
  intro p hp
  cases p with
  | reg r' => exact setV_getV_ne s b (fun e => hp (by rw [e]))
  | _ => rfl

theorem setFlag_keeps (s : State) (f : Bool) : Keeps (· = .reg vf) s (s.setFlag f) :=
  setV_keeps s vf _

theorem setI_keeps (s : State) (w : Word) : Keeps (· = .index) s (s.setI w) := by
  intro p hp; cases p <;> first | exact absurd rfl hp | rfl

theorem setPC_keeps (s : State) (n : Nat) : Keeps (· = .pc) s (s.setPC n) := by
  intro p hp; cases p <;> first | exact absurd rfl hp | rfl

theorem advance_keeps (s : State) : Keeps (· = .pc) s s.advance := setPC_keeps s _

theorem skipNext_keeps (s : State) : Keeps (· = .pc) s s.skipNext := setPC_keeps s _

theorem setDT_keeps (s : State) (b : Byte) : Keeps (· = .delayTimer) s (s.setDT b) := by
  intro p hp; cases p <;> first | exact absurd rfl hp | rfl

theorem setST_keeps (s : State) (b : Byte) : Keeps (· = .soundTimer) s (s.setST b) := by
  intro p hp; cases p <;> first | exact absurd rfl hp | rfl

theorem setFB_keeps (s : State) (f : FrameBuffer) : Keeps (· = .framebuffer) s (s.setFB f) := by
  intro p hp; cases p <;> first | exact absurd rfl hp | rfl

theorem setWait_keeps (s : State) (b : Bool) : Keeps (· = .waitFlag) s (s.setWait b) := by
  intro p hp; cases p <;> first | exact absurd rfl hp | rfl

theorem countDraw_keeps (s : State) : Keeps (· = .draws) s s.countDraw := by
  intro p hp; cases p <;> first | exact absurd rfl hp | rfl

theorem raiseFatal_keeps (s : State) (c : FaultCause) :
    Keeps (· = .faultLatch) s (s.raiseFatal c) := by
  intro p hp; cases p <;> first | exact absurd rfl hp | rfl

theorem tickTimers_keeps (s : State) :
    Keeps (· ∈ [.delayTimer, .soundTimer]) s s.tickTimers := by
  intro p hp
  cases p with
  | delayTimer => exact absurd (by simp) hp
  | soundTimer => exact absurd (by simp) hp
  | _ => rfl

theorem setKeys_keeps (s : State) (k : Vector Bool 16) :
    Keeps (fun p => ∃ j, p = .key j) s (s.setKeys k) := by
  intro p hp; cases p <;> first | exact absurd ⟨_, rfl⟩ hp | rfl

theorem writeByte_keeps (s : State) (a : Nat) (b : Byte) :
    Keeps (fun p => ∃ c, p = .memByte c ∧ c % 4096 = a % 4096) s (s.writeByte a b) := by
  intro p hp
  cases p with
  | memByte c =>
    have h : c % 4096 ≠ a % 4096 := fun e => hp ⟨c, rfl, e⟩
    simp [Part.same, writeByte_readByte, h]
  | _ => rfl

/-! ### Where PC goes -/

theorem setPC_toNat (s : State) (n : Nat) : (s.setPC n).pc.toNat = n % 4096 := by
  simp only [setPC_pc, BitVec.toNat_ofNat]; omega

theorem advance_moved (s : State) : PcMoved 2 s s.advance := setPC_toNat s _

theorem skipNext_moved (s : State) : PcMoved 4 s s.skipNext := setPC_toNat s _

theorem PcMoved.of_pc_eq {n : Nat} {s s' t : State} (h : PcMoved n s' t) (e : s'.pc = s.pc) :
    PcMoved n s t := by unfold PcMoved at *; rw [← e]; exact h

theorem pcOdd_iff (s : State) : s.pcOdd = true ↔ s.pc.toNat % 2 = 1 := by
  simp [State.pcOdd, BitVec.getLsbD, Nat.testBit_zero]

theorem pcOdd_eq_false_iff (s : State) : s.pcOdd = false ↔ s.pc.toNat % 2 = 0 := by
  simp [State.pcOdd, BitVec.getLsbD, Nat.testBit_zero]

end Sys2Proof.Machine
end

