-- ==== Sys2Proof/Laws/Blocks.lean ====
section
/-! SUPPORT. The block moves (R174, R175), the digit stores (R173) and the ROM copy (R271): all
that each can do. -/

namespace Sys2Proof.Machine

theorem dataAddr_eq (s : State) (k : Nat) : s.dataAddr k = s.i.toNat + k := rfl

/-! ### Register dump -/

/-- A dump of n registers changes memory only, at the n indexed bytes. -/
theorem storeBlock_keeps (s : State) (n : Nat) : Keeps (IndexedByte s n) s (s.storeBlock n) := by
  induction n with
  | zero => exact Keeps.refl _ s
  | succ n ih =>
    refine (ih.trans (writeByte_keeps (s.storeBlock n) _ _)).mono fun p hp => ?_
    rcases hp with ⟨k, a, hk, rfl, ha⟩ | ⟨c, rfl, hc⟩
    · exact ⟨k, a, by omega, rfl, ha⟩
    · exact ⟨n, c, by omega, rfl, hc⟩

theorem storeBlock_pc (s : State) (n : Nat) : (s.storeBlock n).pc = s.pc :=
  storeBlock_keeps s n .pc (by rintro ⟨k, a, _, h, _⟩; cases h)

/-- Byte k of a dump of n ≤ 16 registers is register k. -/
theorem storeBlock_readByte (s : State) {n k : Nat} (hn : n ≤ 16) (hk : k < n) :
    (s.storeBlock n).readByte (s.dataAddr k) = s.getV (BitVec.ofNat 4 k) := by
  induction n with
  | zero => omega
  | succ n ih =>
    simp only [State.storeBlock, writeByte_readByte, dataAddr_eq]
    split
    · rename_i h
      have : k = n := by omega
      rw [this]
    · rename_i h
      exact ih (by omega) (by
        rcases Nat.lt_succ_iff_lt_or_eq.mp hk with h' | h'
        · exact h'
        · exact absurd (by rw [h']) h)

/-! ### Register load -/

theorem loadBlock_keeps (s : State) (n : Nat) (hn : n ≤ 16) :
    Keeps (fun p => ∃ k : RegIdx, k.toNat < n ∧ p = .reg k) s (s.loadBlock n) := by
  induction n with
  | zero => exact Keeps.refl _ s
  | succ n ih =>
    refine ((ih (by omega)).trans (setV_keeps (s.loadBlock n) _ _)).mono fun p hp => ?_
    rcases hp with ⟨k, hk, rfl⟩ | rfl
    · exact ⟨k, by omega, rfl⟩
    · exact ⟨BitVec.ofNat 4 n, by simp only [BitVec.toNat_ofNat]; omega, rfl⟩

theorem loadBlock_pc (s : State) (n : Nat) (hn : n ≤ 16) : (s.loadBlock n).pc = s.pc :=
  loadBlock_keeps s n hn .pc (by rintro ⟨k, _, h⟩; cases h)

/-- Register k after a load of n ≤ 16 registers is byte k. -/
theorem loadBlock_getV (s : State) {n : Nat} (hn : n ≤ 16) (k : RegIdx) (hk : k.toNat < n) :
    (s.loadBlock n).getV k = s.readByte (s.dataAddr k.toNat) := by
  induction n with
  | zero => omega
  | succ n ih =>
    simp only [State.loadBlock, setV_getV]
    have hnum : (BitVec.ofNat 4 n).toNat = n := by simp only [BitVec.toNat_ofNat]; omega
    by_cases h : k = BitVec.ofNat 4 n
    · rw [if_pos h, h, hnum]; rfl
    · rw [if_neg h]
      refine ih (by omega) ?_
      have : k.toNat ≠ n := fun e => h (BitVec.eq_of_toNat_eq (by rw [hnum, e]))
      omega

/-! ### Digit stores -/

theorem digits_sum (b : Byte) :
    b.toNat = 100 * (hundreds b).toNat + 10 * (tens b).toNat + (ones b).toNat := by
  have := b.isLt
  simp only [hundreds, tens, ones, BitVec.toNat_ofNat]; omega

theorem tens_le (b : Byte) : (tens b).toNat ≤ 9 := by
  simp only [tens, BitVec.toNat_ofNat]; omega

theorem ones_le (b : Byte) : (ones b).toNat ≤ 9 := by
  simp only [ones, BitVec.toNat_ofNat]; omega

theorem storeDigits_keeps (s : State) (b : Byte) :
    Keeps (IndexedByte s 3) s (s.storeDigits b) := by
  refine ((writeByte_keeps s _ _).trans ((writeByte_keeps _ _ _).trans
    (writeByte_keeps _ _ _))).mono fun p hp => ?_
  rcases hp with ⟨c, rfl, h⟩ | ⟨c, rfl, h⟩ | ⟨c, rfl, h⟩
  · exact ⟨0, c, by omega, rfl, h⟩
  · exact ⟨1, c, by omega, rfl, h⟩
  · exact ⟨2, c, by omega, rfl, h⟩

theorem storeDigits_readByte (s : State) (b : Byte) :
    (s.storeDigits b).readByte (s.dataAddr 0) = hundreds b ∧
    (s.storeDigits b).readByte (s.dataAddr 1) = tens b ∧
    (s.storeDigits b).readByte (s.dataAddr 2) = ones b := by
  have h01 : ¬ s.dataAddr 0 % 4096 = s.dataAddr 1 % 4096 := by simp only [dataAddr_eq]; omega
  have h02 : ¬ s.dataAddr 0 % 4096 = s.dataAddr 2 % 4096 := by simp only [dataAddr_eq]; omega
  have h12 : ¬ s.dataAddr 1 % 4096 = s.dataAddr 2 % 4096 := by simp only [dataAddr_eq]; omega
  simp only [State.storeDigits, writeByte_readByte, if_neg h01, if_neg h02, if_neg h12,
    if_true, and_self]

theorem storeDigits_pc (s : State) (b : Byte) : (s.storeDigits b).pc = s.pc := rfl

/-! ### ROM copy -/

theorem copyBytes_keeps (rom : List Byte) (s : State) (a : Nat) (h : a + rom.length ≤ 4096) :
    Keeps (fun p => ∃ c, p = .memByte c ∧ a ≤ c % 4096 ∧ c % 4096 < a + rom.length) s
      (s.copyBytes a rom) := by
  induction rom generalizing s a with
  | nil => exact Keeps.refl _ s
  | cons b rest ih =>
    simp only [List.length_cons] at h ⊢
    refine ((writeByte_keeps s a b).trans (ih (s.writeByte a b) (a + 1) (by omega))).mono
      fun p hp => ?_
    rcases hp with ⟨c, rfl, h1⟩ | ⟨c, rfl, h1, h2⟩
    · exact ⟨c, rfl, by omega, by omega⟩
    · exact ⟨c, rfl, by omega, by omega⟩

theorem copyBytes_readByte (rom : List Byte) (s : State) (a j : Nat)
    (h : a + rom.length ≤ 4096) (hj : j < rom.length) :
    (s.copyBytes a rom).readByte (a + j) = rom[j] := by
  induction rom generalizing s a j with
  | nil => simp at hj
  | cons b rest ih =>
    simp only [List.length_cons] at h hj
    cases j with
    | zero =>
      have hk := copyBytes_keeps rest (s.writeByte a b) (a + 1) (by omega) (.memByte a) (by
        rintro ⟨c, hc, h1, h2⟩
        cases hc
        omega)
      have hk' : ((s.writeByte a b).copyBytes (a + 1) rest).readByte a =
        (s.writeByte a b).readByte a := hk
      simpa [State.copyBytes, writeByte_readByte] using hk'
    | succ j =>
      have := ih (s.writeByte a b) (a + 1) j (by omega) (by omega)
      simpa [State.copyBytes, Nat.add_assoc, Nat.add_comm 1 j] using this

end Sys2Proof.Machine
end

