-- ==== Sys2Proof/Laws/Decode.lean ====
section
/-! SUPPORT. The fields of a word as numbers (R11), and the bytes of a word (R62). -/

namespace Sys2Proof

theorem fieldMajor_toNat (op : Word) : (fieldMajor op).toNat = op.toNat / 4096 := by
  have := op.isLt
  simp only [fieldMajor, BitVec.extractLsb'_toNat, Nat.shiftRight_eq_div_pow]; omega

theorem fieldX_toNat (op : Word) : (fieldX op).toNat = op.toNat / 256 % 16 := by
  simp only [fieldX, BitVec.extractLsb'_toNat, Nat.shiftRight_eq_div_pow]

theorem fieldY_toNat (op : Word) : (fieldY op).toNat = op.toNat / 16 % 16 := by
  simp only [fieldY, BitVec.extractLsb'_toNat, Nat.shiftRight_eq_div_pow]

theorem fieldN_toNat (op : Word) : (fieldN op).toNat = op.toNat % 16 := by
  simp [fieldN]

theorem fieldKK_toNat (op : Word) : (fieldKK op).toNat = op.toNat % 256 := by
  simp [fieldKK]

theorem fieldNNN_toNat (op : Word) : (fieldNNN op).toNat = op.toNat % 4096 := by
  simp [fieldNNN]

theorem wordOfBytes_toNat (hi lo : Byte) :
    (wordOfBytes hi lo).toNat = hi.toNat * 256 + lo.toNat := by
  have := lo.isLt
  rw [wordOfBytes, BitVec.toNat_append, ← Nat.shiftLeft_add_eq_or_of_lt this, Nat.shiftLeft_eq]

theorem highByte_toNat (op : Word) : (highByte op).toNat = op.toNat / 256 := by
  have := op.isLt
  simp only [highByte, BitVec.extractLsb'_toNat, Nat.shiftRight_eq_div_pow]; omega

theorem lowByte_toNat (op : Word) : (lowByte op).toNat = op.toNat % 256 := by
  simp [lowByte]

/-- A word is its two bytes, high byte first. -/
theorem wordOfBytes_of_word (op : Word) : wordOfBytes (highByte op) (lowByte op) = op := by
  apply BitVec.eq_of_toNat_eq
  rw [wordOfBytes_toNat, highByte_toNat, lowByte_toNat]
  omega

/-! ### The masks of R95 as equalities of fields -/

theorem mask_F000 (op v : Word) :
    op &&& 0xF000#16 = v &&& 0xF000#16 ↔ fieldMajor op = fieldMajor v := by
  constructor
  · intro h
    have e := congrArg (fun w => w.extractLsb' 12 4) h
    simp only [BitVec.extractLsb'_and] at e
    exact (BitVec.and_allOnes (x := fieldMajor op)).symm.trans
      (e.trans (BitVec.and_allOnes (x := fieldMajor v)))
  · intro h
    apply BitVec.eq_of_getLsbD_eq
    intro i hi
    have b (j : Nat) := congrArg (fun w => w.getLsbD j) h
    simp only [fieldMajor, BitVec.getLsbD_extractLsb'] at b
    have b0 := b 0; have b1 := b 1; have b2 := b 2; have b3 := b 3
    interval_cases i <;> simp_all

theorem mask_F00F (op v : Word) : op &&& 0xF00F#16 = v &&& 0xF00F#16 ↔
    fieldMajor op = fieldMajor v ∧ fieldN op = fieldN v := by
  constructor
  · intro h
    have e := congrArg (fun w => w.extractLsb' 12 4) h
    have e' := congrArg (fun w => w.extractLsb' 0 4) h
    simp only [BitVec.extractLsb'_and] at e e'
    exact ⟨(BitVec.and_allOnes (x := fieldMajor op)).symm.trans
      (e.trans (BitVec.and_allOnes (x := fieldMajor v))),
      (BitVec.and_allOnes (x := fieldN op)).symm.trans
      (e'.trans (BitVec.and_allOnes (x := fieldN v)))⟩
  · rintro ⟨h, h'⟩
    apply BitVec.eq_of_getLsbD_eq
    intro i hi
    have b (j : Nat) := congrArg (fun w => w.getLsbD j) h
    have c (j : Nat) := congrArg (fun w => w.getLsbD j) h'
    simp only [fieldMajor, fieldN, BitVec.getLsbD_extractLsb'] at b c
    have b0 := b 0; have b1 := b 1; have b2 := b 2; have b3 := b 3
    have c0 := c 0; have c1 := c 1; have c2 := c 2; have c3 := c 3
    interval_cases i <;> simp_all

theorem mask_F0FF (op v : Word) : op &&& 0xF0FF#16 = v &&& 0xF0FF#16 ↔
    fieldMajor op = fieldMajor v ∧ fieldKK op = fieldKK v := by
  constructor
  · intro h
    have e := congrArg (fun w => w.extractLsb' 12 4) h
    have e' := congrArg (fun w => w.extractLsb' 0 8) h
    simp only [BitVec.extractLsb'_and] at e e'
    exact ⟨(BitVec.and_allOnes (x := fieldMajor op)).symm.trans
      (e.trans (BitVec.and_allOnes (x := fieldMajor v))),
      (BitVec.and_allOnes (x := fieldKK op)).symm.trans
      (e'.trans (BitVec.and_allOnes (x := fieldKK v)))⟩
  · rintro ⟨h, h'⟩
    apply BitVec.eq_of_getLsbD_eq
    intro i hi
    have b (j : Nat) := congrArg (fun w => w.getLsbD j) h
    have c (j : Nat) := congrArg (fun w => w.getLsbD j) h'
    simp only [fieldMajor, fieldKK, BitVec.getLsbD_extractLsb'] at b c
    have b0 := b 0; have b1 := b 1; have b2 := b 2; have b3 := b 3
    have c0 := c 0; have c1 := c 1; have c2 := c 2; have c3 := c 3
    have c4 := c 4; have c5 := c 5; have c6 := c 6; have c7 := c 7
    interval_cases i <;> simp_all

theorem mask_FFFF (op : Word) : op &&& 0xFFFF#16 = op := BitVec.and_allOnes

end Sys2Proof
end

