-- ==== Sys2Proof/Laws/Display.lean ====
section
/-! SUPPORT. The framebuffer (R28) and the sprite blit (R191 to R193): all that each can do. -/

namespace Sys2Proof.Machine

theorem get_clear (x y : Nat) : FrameBuffer.get FrameBuffer.clear x y = false := by
  simp [FrameBuffer.get, FrameBuffer.clear]

/-- A flip changes the one pixel it names. -/
theorem get_flip (fb : FrameBuffer) (x y px py : Nat) :
    FrameBuffer.get (FrameBuffer.flip fb x y) px py =
      (FrameBuffer.get fb px py ^^ decide (px % 64 = x % 64 ∧ py % 32 = y % 32)) := by
  have hx : px % 64 < 64 := Nat.mod_lt _ (by decide)
  simp only [FrameBuffer.get, FrameBuffer.flip, Vector.getElem_set]
  by_cases hy : y % 32 = py % 32
  · by_cases hc : x % 64 = px % 64
    · simp [hy, hc, hx]
    · simp [hy, hc, BitVec.getLsbD_twoPow, Ne.symm hc]
  · simp [hy, Ne.symm hy]

/-- Framebuffers that agree on all 2048 pixels are equal. -/
theorem fb_ext {f g : FrameBuffer}
    (h : ∀ px py, px < 64 → py < 32 → FrameBuffer.get f px py = FrameBuffer.get g px py) :
    f = g := by
  apply Vector.ext
  intro y hy
  apply BitVec.eq_of_getLsbD_eq
  intro x hx
  have := h x y hx hy
  simpa [FrameBuffer.get, Nat.mod_eq_of_lt hx, Nat.mod_eq_of_lt hy] using this

/-- The framebuffer with the pixels of `bits` flipped, and the collision noted: what a blit has
done so far. -/
def Blitted (b c : Blit) (bits : Nat → Nat → Bool) : Prop :=
  (∀ px py, px < 64 → py < 32 →
    FrameBuffer.get c.fb px py = (FrameBuffer.get b.fb px py ^^ bits px py)) ∧
  (c.hit = true ↔ b.hit = true ∨
    ∃ px py, px < 64 ∧ py < 32 ∧ FrameBuffer.get b.fb px py = true ∧ bits px py = true)

theorem Blitted.refl (b : Blit) : Blitted b b (fun _ _ => false) := by simp [Blitted]

theorem draw_blitted (b : Blit) (x y : Nat) (bit : Bool) :
    Blitted b (b.draw x y bit)
      (fun px py => bit && decide (px = x % 64 ∧ py = y % 32)) := by
  cases bit with
  | false => simpa [Blit.draw] using Blitted.refl b
  | true =>
    constructor
    · intro px py hx hy
      simp [Blit.draw, get_flip, Nat.mod_eq_of_lt hx, Nat.mod_eq_of_lt hy]
    · have e : FrameBuffer.get b.fb (x % 64) (y % 32) = FrameBuffer.get b.fb x y := by
        simp [FrameBuffer.get]
      simp only [Blit.draw, if_true, Bool.or_eq_true, Bool.true_and, decide_eq_true_eq]
      constructor
      · rintro (h | h)
        · exact .inl h
        · exact .inr ⟨x % 64, y % 32, Nat.mod_lt _ (by decide), Nat.mod_lt _ (by decide),
            by rw [e, h], rfl, rfl⟩
      · rintro (h | ⟨px, py, _, _, h1, rfl, rfl⟩)
        · exact .inl h
        · exact .inr (by rw [← e, h1])

/-- Two blits on disjoint pixels are one blit on both. -/
theorem Blitted.trans {b c d : Blit} {f g : Nat → Nat → Bool} (h : Blitted b c f)
    (h' : Blitted c d g) (hd : ∀ px py, f px py = true → g px py = false) :
    Blitted b d (fun px py => f px py || g px py) := by
  constructor
  · intro px py hx hy
    rw [h'.1 px py hx hy, h.1 px py hx hy]
    have := hd px py
    cases hf : f px py <;> cases hg : g px py <;> simp_all
  · rw [h'.2, h.2]
    constructor
    · rintro ((hb | ⟨px, py, hx, hy, h1, h2⟩) | ⟨px, py, hx, hy, h1, h2⟩)
      · exact .inl hb
      · exact .inr ⟨px, py, hx, hy, h1, by simp [h2]⟩
      · refine .inr ⟨px, py, hx, hy, ?_, by simp [h2]⟩
        rw [h.1 px py hx hy] at h1
        have := hd px py
        cases hf : f px py <;> simp_all
    · rintro (hb | ⟨px, py, hx, hy, h1, h2⟩)
      · exact .inl (.inl hb)
      · cases hf : f px py with
        | true => exact .inl (.inr ⟨px, py, hx, hy, h1, hf⟩)
        | false =>
          refine .inr ⟨px, py, hx, hy, ?_, by simpa [hf] using h2⟩
          rw [h.1 px py hx hy, h1, hf]; rfl

theorem Blitted.congr {b c : Blit} {f g : Nat → Nat → Bool} (h : Blitted b c f)
    (e : ∀ px py, px < 64 → py < 32 → f px py = g px py) : Blitted b c g := by
  constructor
  · intro px py hx hy; rw [h.1 px py hx hy, e px py hx hy]
  · rw [h.2]
    constructor
    · rintro (hb | ⟨px, py, hx, hy, h1, h2⟩)
      · exact .inl hb
      · exact .inr ⟨px, py, hx, hy, h1, by rw [← e px py hx hy, h2]⟩
    · rintro (hb | ⟨px, py, hx, hy, h1, h2⟩)
      · exact .inl hb
      · exact .inr ⟨px, py, hx, hy, h1, by rw [e px py hx hy, h2]⟩

/-- The bit of the first n columns of one sprite row that lands on a pixel. -/
def rowBit (sprite : Byte) (x y n px py : Nat) : Bool :=
  decide ((px + 64 - x % 64) % 64 < n) && decide (py = y % 32) &&
    sprite.getLsbD (7 - (px + 64 - x % 64) % 64)

theorem drawRow_blitted (sprite : Byte) (x y n : Nat) (hn : n ≤ 8) (b : Blit) :
    Blitted b (Blit.drawRow sprite x y n b) (rowBit sprite x y n) := by
  induction n with
  | zero => exact (Blitted.refl b).congr (by simp [rowBit])
  | succ n ih =>
    refine ((ih (by omega)).trans (draw_blitted _ (x + n) y (sprite.getLsbD (7 - n))) ?_).congr ?_
    · intro px py h
      simp only [rowBit, Bool.and_eq_true, decide_eq_true_eq] at h
      simp only [Bool.and_eq_false_iff, decide_eq_false_iff_not]
      right
      omega
    · intro px py hx hy
      have hcol : px = (x + n) % 64 ↔ (px + 64 - x % 64) % 64 = n := by omega
      simp only [rowBit, hcol]
      by_cases h1 : (px + 64 - x % 64) % 64 = n
      · rw [h1]
        by_cases h2 : py = y % 32 <;> simp [h2]
      · by_cases h3 : (px + 64 - x % 64) % 64 < n
        · have : (px + 64 - x % 64) % 64 < n + 1 := by omega
          simp [h1, h3, this]
        · have : ¬ (px + 64 - x % 64) % 64 < n + 1 := by omega
          simp [h1, h3, this]

/-- The blit of a sprite of n ≤ 15 rows. -/
theorem drawRows_blitted (s : State) (x y n : Nat) (hn : n ≤ 15) (b : Blit) :
    Blitted b (s.drawRows x y n b) (s.spriteBit x y n) := by
  induction n with
  | zero => exact (Blitted.refl b).congr (by simp [State.spriteBit])
  | succ n ih =>
    refine ((ih (by omega)).trans (drawRow_blitted (s.readByte (s.i.toNat + n)) x (y + n) 8
      (Nat.le_refl _) _) ?_).congr ?_
    · intro px py h
      simp only [State.spriteBit, Bool.and_eq_true, decide_eq_true_eq] at h
      simp only [rowBit, Bool.and_eq_false_iff, decide_eq_false_iff_not]
      left; right
      omega
    · intro px py hx hy
      have hrow : py = (y + n) % 32 ↔ (py + 32 - y % 32) % 32 = n := by omega
      simp only [State.spriteBit, rowBit, hrow, State.dataAddr]
      by_cases h1 : (py + 32 - y % 32) % 32 = n
      · rw [h1]; simp
      · by_cases h3 : (py + 32 - y % 32) % 32 < n
        · have : (py + 32 - y % 32) % 32 < n + 1 := by omega
          simp [h1, h3, this]
        · have : ¬ (py + 32 - y % 32) % 32 < n + 1 := by omega
          simp [h1, h3, this]

/-- The blit of `DRW` (R191). -/
theorem blit_blitted (s : State) (x0 y0 : Byte) (n : Nibble) :
    Blitted ⟨s.fb, false⟩ (s.blit x0 y0 n) (s.spriteBit x0.toNat y0.toNat n.toNat) :=
  drawRows_blitted s x0.toNat y0.toNat n.toNat (by have := n.isLt; omega) _

end Sys2Proof.Machine
end

