-- ==== Sys2Proof/Laws/PerInstr.lean ====
section
/-! SUPPORT. Statements made for every instruction as syntax, one lemma for each constructor. -/

namespace Sys2Proof.Laws.NumberFits

/-- The number the encoder makes fits in the 16 bits of an instruction (R90), so the encoding drops
no bit. -/
def Statement (i : Sys2Proof.Instr) : Prop := i.fields.number < 65536

/-- Format NNN. -/
theorem addr {m n : Nat} (hm : m < 16) (hn : n < 4096) : m * 4096 + n < 65536 := by omega

/-- Formats XKK and X. -/
theorem regByte {m x k : Nat} (hm : m < 16) (hx : x < 16) (hk : k < 256) :
    m * 4096 + x * 256 + k < 65536 := by omega

/-- Formats XY and XYN. -/
theorem regReg {m x y n : Nat} (hm : m < 16) (hx : x < 16) (hy : y < 16) (hn : n < 16) :
    m * 4096 + x * 256 + y * 16 + n < 65536 := by omega

theorem cls : Statement .cls := (by decide : (_ : Nat) < 65536)

theorem ret : Statement .ret := (by decide : (_ : Nat) < 65536)

theorem jp (nnn : Sys2Proof.Addr) : Statement (.jp nnn) := addr (by decide) nnn.isLt

theorem call (nnn : Sys2Proof.Addr) : Statement (.call nnn) := addr (by decide) nnn.isLt

theorem seImm (x : Sys2Proof.RegIdx) (kk : Sys2Proof.Byte) : Statement (.seImm x kk) :=
  regByte (by decide) x.isLt kk.isLt

theorem sneImm (x : Sys2Proof.RegIdx) (kk : Sys2Proof.Byte) : Statement (.sneImm x kk) :=
  regByte (by decide) x.isLt kk.isLt

theorem seReg (x y : Sys2Proof.RegIdx) : Statement (.seReg x y) :=
  regReg (by decide) x.isLt y.isLt (by decide)

theorem ldImm (x : Sys2Proof.RegIdx) (kk : Sys2Proof.Byte) : Statement (.ldImm x kk) :=
  regByte (by decide) x.isLt kk.isLt

theorem addImm (x : Sys2Proof.RegIdx) (kk : Sys2Proof.Byte) : Statement (.addImm x kk) :=
  regByte (by decide) x.isLt kk.isLt

theorem ldReg (x y : Sys2Proof.RegIdx) : Statement (.ldReg x y) :=
  regReg (by decide) x.isLt y.isLt (by decide)

theorem orReg (x y : Sys2Proof.RegIdx) : Statement (.orReg x y) :=
  regReg (by decide) x.isLt y.isLt (by decide)

theorem andReg (x y : Sys2Proof.RegIdx) : Statement (.andReg x y) :=
  regReg (by decide) x.isLt y.isLt (by decide)

theorem xorReg (x y : Sys2Proof.RegIdx) : Statement (.xorReg x y) :=
  regReg (by decide) x.isLt y.isLt (by decide)

theorem addReg (x y : Sys2Proof.RegIdx) : Statement (.addReg x y) :=
  regReg (by decide) x.isLt y.isLt (by decide)

theorem subReg (x y : Sys2Proof.RegIdx) : Statement (.subReg x y) :=
  regReg (by decide) x.isLt y.isLt (by decide)

theorem shrReg (x y : Sys2Proof.RegIdx) : Statement (.shrReg x y) :=
  regReg (by decide) x.isLt y.isLt (by decide)

theorem subnReg (x y : Sys2Proof.RegIdx) : Statement (.subnReg x y) :=
  regReg (by decide) x.isLt y.isLt (by decide)

theorem shlReg (x y : Sys2Proof.RegIdx) : Statement (.shlReg x y) :=
  regReg (by decide) x.isLt y.isLt (by decide)

theorem sneReg (x y : Sys2Proof.RegIdx) : Statement (.sneReg x y) :=
  regReg (by decide) x.isLt y.isLt (by decide)

theorem ldI (nnn : Sys2Proof.Addr) : Statement (.ldI nnn) := addr (by decide) nnn.isLt

theorem jpV0 (nnn : Sys2Proof.Addr) : Statement (.jpV0 nnn) := addr (by decide) nnn.isLt

theorem rnd (x : Sys2Proof.RegIdx) (kk : Sys2Proof.Byte) : Statement (.rnd x kk) :=
  regByte (by decide) x.isLt kk.isLt

theorem drw (x y : Sys2Proof.RegIdx) (n : Sys2Proof.Nibble) : Statement (.drw x y n) :=
  regReg (by decide) x.isLt y.isLt n.isLt

theorem skp (x : Sys2Proof.RegIdx) : Statement (.skp x) := regByte (by decide) x.isLt (by decide)

theorem sknp (x : Sys2Proof.RegIdx) : Statement (.sknp x) := regByte (by decide) x.isLt (by decide)

theorem ldVxDt (x : Sys2Proof.RegIdx) : Statement (.ldVxDt x) :=
  regByte (by decide) x.isLt (by decide)

theorem ldVxK (x : Sys2Proof.RegIdx) : Statement (.ldVxK x) :=
  regByte (by decide) x.isLt (by decide)

theorem ldDtVx (x : Sys2Proof.RegIdx) : Statement (.ldDtVx x) :=
  regByte (by decide) x.isLt (by decide)

theorem ldStVx (x : Sys2Proof.RegIdx) : Statement (.ldStVx x) :=
  regByte (by decide) x.isLt (by decide)

theorem addI (x : Sys2Proof.RegIdx) : Statement (.addI x) := regByte (by decide) x.isLt (by decide)

theorem ldF (x : Sys2Proof.RegIdx) : Statement (.ldF x) := regByte (by decide) x.isLt (by decide)

theorem ldB (x : Sys2Proof.RegIdx) : Statement (.ldB x) := regByte (by decide) x.isLt (by decide)

theorem storeRegs (x : Sys2Proof.RegIdx) : Statement (.storeRegs x) :=
  regByte (by decide) x.isLt (by decide)

theorem loadRegs (x : Sys2Proof.RegIdx) : Statement (.loadRegs x) :=
  regByte (by decide) x.isLt (by decide)

end Sys2Proof.Laws.NumberFits
end

