-- ==== Sys2Proof/Laws/Stack.lean ====
section
/-! SUPPORT. Push and pop (R25): all that each can do. -/

namespace Sys2Proof.Machine

/-- A push with SP = j below 16. -/
theorem push_spec (s : State) (w : Word) (j : Fin 16) (h : s.sp.val = j.val) :
    ∃ t, s.push w = some t ∧ t.stack[j] = w ∧ t.sp.val = j.val + 1 ∧ t.pc = s.pc ∧
      Keeps (· ∈ [.sp, .stackSlot j]) s t := by
  have hlt : s.sp.val < 16 := h ▸ j.isLt
  refine ⟨_, dif_pos hlt, ?_, ?_, rfl, ?_⟩
  · simp [h]
  · simp [h]
  · intro p hp
    cases p with
    | stackSlot k =>
      have hk : s.sp.val ≠ k.val := fun e => hp (by simp [Fin.ext_iff, ← e, h])
      simp [Part.same, hk]
    | sp => exact absurd (by simp) hp
    | _ => rfl

theorem push_full (s : State) (w : Word) (h : s.sp.val = 16) : s.push w = none :=
  dif_neg (by omega)

/-- A pop with SP = j + 1. -/
theorem pop_spec (s : State) (j : Fin 16) (h : s.sp.val = j.val + 1) :
    ∃ t, s.pop = some (s.stack[j], t) ∧ t.sp.val = j.val ∧ t.pc = s.pc ∧ Keeps (· = .sp) s t := by
  have hlt : 0 < s.sp.val := by omega
  refine ⟨{ s with sp := ⟨s.sp.val - 1, by omega⟩ }, ?_, ?_, rfl, ?_⟩
  · simp [State.pop, h]
  · simp [h]
  · intro p hp
    cases p <;> first | exact absurd rfl hp | rfl

theorem pop_empty (s : State) (h : s.sp.val = 0) : s.pop = none := dif_neg (by omega)

end Sys2Proof.Machine
end

