-- ==== Sys2Proof/Laws/Step.lean ====
section
/-! SUPPORT. What a step can do (R230), and the parts an instruction can write (R34). -/

namespace Sys2Proof.Machine

theorem canFetch_not_odd {s : State} (h : s.CanFetch) : s.pcOdd = false :=
  (pcOdd_eq_false_iff s).mpr h.2

theorem step_of_fault {s : State} (h : s.fault ≠ .none) : step s = .next s := if_pos h

theorem step_of_odd {s : State} (hf : s.fault = .none) (h : s.pc.toNat % 2 = 1) :
    step s = .next (s.raiseFatal .misalignedPC) := by
  simp [step, hf, (pcOdd_iff s).mpr h]

theorem step_of_about {s : State} {i : Instr} (h : s.About i) : step s = exec i s := by
  simp [step, h.1.1, canFetch_not_odd h.1, h.2]

theorem step_of_unknown {s : State} {op : Word} (h : s.CanFetch)
    (hd : decode s.fetchWord = .unknownOpcode op) : step s = .next s.unknownOpcode := by
  simp [step, h.1, canFetch_not_odd h, hd]

/-- The four things a step can be (R230). -/
theorem step_cases (s : State) :
    (s.fault ≠ .none ∧ step s = .next s) ∨
    (s.fault = .none ∧ s.pc.toNat % 2 = 1 ∧ step s = .next (s.raiseFatal .misalignedPC)) ∨
    (∃ i, s.About i ∧ step s = exec i s) ∨
    (∃ op, s.CanFetch ∧ decode s.fetchWord = .unknownOpcode op ∧
      step s = .next s.unknownOpcode) := by
  by_cases hf : s.fault = .none
  · by_cases ho : s.pc.toNat % 2 = 1
    · exact .inr (.inl ⟨hf, ho, step_of_odd hf ho⟩)
    · have hc : s.CanFetch := ⟨hf, by omega⟩
      cases hd : decode s.fetchWord with
      | instr i => exact .inr (.inr (.inl ⟨i, ⟨hc, hd⟩, step_of_about ⟨hc, hd⟩⟩))
      | unknownOpcode op => exact .inr (.inr (.inr ⟨op, hc, rfl, step_of_unknown hc hd⟩))
  · exact .inl ⟨hf, step_of_fault hf⟩

theorem about_unique {s : State} {i j : Instr} (h : s.About i) (h' : s.About j) : i = j := by
  have := h.2.symm.trans h'.2
  cases this; rfl

theorem unknownOpcode_keeps (s : State) :
    Keeps (· ∈ [.pc, .faultLatch]) s s.unknownOpcode := by
  unfold State.unknownOpcode
  split
  · exact (advance_keeps s).mono (by simp)
  · exact (raiseFatal_keeps s _).mono (by simp)

theorem skipIf_keeps (s : State) (c : Bool) : Keeps (· = .pc) s (s.skipIf c) := by
  unfold State.skipIf
  split
  · exact skipNext_keeps s
  · exact advance_keeps s

theorem resultThenFlag_keeps (s : State) (x : RegIdx) (b : Byte) (f : Bool) :
    Keeps (· ∈ [.reg x, .reg vf, .pc]) s (s.resultThenFlag x b f) :=
  (((setV_keeps s x b).mono (by simp)).comp
    ((setFlag_keeps _ f).mono (by simp))).comp ((advance_keeps _).mono (by simp))

theorem resultThenFlag_vf (s : State) (x : RegIdx) (b : Byte) (f : Bool) :
    (s.resultThenFlag x b f).getV vf = flagByte f := by
  simp [State.resultThenFlag, setFlag_eq]

theorem resultThenFlag_result (s : State) {x : RegIdx} (b : Byte) (f : Bool) (h : x ≠ vf) :
    (s.resultThenFlag x b f).getV x = b := by
  simp [State.resultThenFlag, setFlag_eq, h]

theorem resultThenFlag_moved (s : State) (x : RegIdx) (b : Byte) (f : Bool) :
    PcMoved 2 s (s.resultThenFlag x b f) :=
  (advance_moved _).of_pc_eq rfl

/-- The parts each instruction can write, as the table of R34 gives them, with PC, WAIT, FAULT and
the draw count. -/
def mayWrite (s : State) : Instr → Part → Prop
  | .cls, p => p ∈ [.framebuffer, .pc]
  | .ret, p => p ∈ [.pc, .sp, .faultLatch]
  | .jp _, p | .jpV0 _, p => p = .pc
  | .call _, p => p ∈ [.pc, .sp, .faultLatch] ∨ ∃ j : Fin 16, j.val = s.sp.val ∧ p = .stackSlot j
  | .seImm _ _, p | .sneImm _ _, p | .seReg _ _, p | .sneReg _ _, p | .skp _, p | .sknp _, p =>
    p = .pc
  | .ldImm x _, p | .addImm x _, p | .ldReg x _, p | .orReg x _, p | .andReg x _, p
  | .xorReg x _, p | .ldVxDt x, p => p ∈ [.reg x, .pc]
  | .addReg x _, p | .subReg x _, p | .shrReg x _, p | .subnReg x _, p | .shlReg x _, p =>
    p ∈ [.reg x, .reg vf, .pc]
  | .ldI _, p | .addI _, p | .ldF _, p => p ∈ [.index, .pc]
  | .rnd x _, p => p ∈ [.reg x, .pc, .draws]
  | .drw _ _ _, p => p ∈ [.framebuffer, .reg vf, .pc]
  | .ldVxK x, p => p ∈ [.reg x, .waitFlag, .pc]
  | .ldDtVx _, p => p ∈ [.delayTimer, .pc]
  | .ldStVx _, p => p ∈ [.soundTimer, .pc]
  | .ldB _, p => p = .pc ∨ IndexedByte s 3 p
  | .storeRegs x, p => p = .pc ∨ IndexedByte s (x.toNat + 1) p
  | .loadRegs x, p => p = .pc ∨ ∃ k : RegIdx, k.toNat ≤ x.toNat ∧ p = .reg k

theorem execCall_keeps {nnn : Addr} {s t : State} (h : execCall nnn s = .next t) :
    Keeps (mayWrite s (.call nnn)) s t := by
  by_cases hs : s.sp.val < 16
  · obtain ⟨u, hu, -, -, -, hk⟩ := push_spec s s.returnAddress ⟨s.sp.val, hs⟩ rfl
    simp only [execCall, hu, Host.Outcome.next.injEq] at h
    subst h
    refine (hk.trans (setPC_keeps u _)).mono fun p hp => ?_
    rcases hp with hp | rfl
    · simp only [List.mem_cons, List.not_mem_nil, or_false] at hp
      rcases hp with rfl | rfl
      · exact .inl (by simp)
      · exact .inr ⟨_, rfl, rfl⟩
    · exact .inl (by simp)
  · simp only [execCall, push_full s _ (by omega), Host.Outcome.next.injEq] at h
    subst h
    exact (raiseFatal_keeps s _).mono fun p hp => .inl (by simp [hp])

theorem execRet_keeps {s t : State} (h : execRet s = .next t) :
    Keeps (mayWrite s .ret) s t := by
  by_cases hs : s.sp.val = 0
  · simp only [execRet, pop_empty s hs, Host.Outcome.next.injEq] at h
    subst h
    exact (raiseFatal_keeps s _).mono (by simp [mayWrite])
  · obtain ⟨u, hu, -, -, hk⟩ := pop_spec s ⟨s.sp.val - 1, by omega⟩ (by simp; omega)
    simp only [execRet, hu, Host.Outcome.next.injEq] at h
    subst h
    exact (hk.trans (setPC_keeps u _)).mono (by simp [mayWrite])

theorem execLdVxK_keeps {x : RegIdx} {s t : State} (h : execLdVxK x s = .next t) :
    Keeps (mayWrite s (.ldVxK x)) s t := by
  unfold execLdVxK at h
  split at h <;> cases h
  · exact (setWait_keeps s true).mono (by simp [mayWrite])
  · exact (((setV_keeps s x _).trans (setWait_keeps _ _)).trans (advance_keeps _)).mono
      (by simp [mayWrite]; tauto)

/-- An instruction that completes changes only what R34 lets it write. -/
theorem exec_keeps {i : Instr} {s t : State} (h : exec i s = .next t) :
    Keeps (mayWrite s i) s t := by
  cases i with
  | cls => cases h; exact ((setFB_keeps s _).trans (advance_keeps _)).mono (by simp [mayWrite])
  | ret => exact execRet_keeps h
  | jp nnn => cases h; exact setPC_keeps s _
  | call nnn => exact execCall_keeps h
  | jpV0 nnn => cases h; exact setPC_keeps s _
  | seImm x kk => cases h; exact skipIf_keeps s _
  | sneImm x kk => cases h; exact skipIf_keeps s _
  | seReg x y => cases h; exact skipIf_keeps s _
  | sneReg x y => cases h; exact skipIf_keeps s _
  | skp x => cases h; exact skipIf_keeps s _
  | sknp x => cases h; exact skipIf_keeps s _
  | ldImm x kk => cases h; exact ((setV_keeps s x _).trans (advance_keeps _)).mono (by simp [mayWrite])
  | addImm x kk => cases h; exact ((setV_keeps s x _).trans (advance_keeps _)).mono (by simp [mayWrite])
  | ldReg x y => cases h; exact ((setV_keeps s x _).trans (advance_keeps _)).mono (by simp [mayWrite])
  | orReg x y => cases h; exact ((setV_keeps s x _).trans (advance_keeps _)).mono (by simp [mayWrite])
  | andReg x y => cases h; exact ((setV_keeps s x _).trans (advance_keeps _)).mono (by simp [mayWrite])
  | xorReg x y => cases h; exact ((setV_keeps s x _).trans (advance_keeps _)).mono (by simp [mayWrite])
  | ldVxDt x => cases h; exact ((setV_keeps s x _).trans (advance_keeps _)).mono (by simp [mayWrite])
  | addReg x y => cases h; exact resultThenFlag_keeps s x _ _
  | subReg x y => cases h; exact resultThenFlag_keeps s x _ _
  | shrReg x y => cases h; exact resultThenFlag_keeps s x _ _
  | subnReg x y => cases h; exact resultThenFlag_keeps s x _ _
  | shlReg x y => cases h; exact resultThenFlag_keeps s x _ _
  | ldI nnn => cases h; exact ((setI_keeps s _).trans (advance_keeps _)).mono (by simp [mayWrite])
  | addI x => cases h; exact ((setI_keeps s _).trans (advance_keeps _)).mono (by simp [mayWrite])
  | ldF x => cases h; exact ((setI_keeps s _).trans (advance_keeps _)).mono (by simp [mayWrite])
  | rnd x kk =>
    cases h
    exact (((setV_keeps s x _).trans (countDraw_keeps _)).trans (advance_keeps _)).mono
      (by simp [mayWrite]; tauto)
  | drw x y n =>
    cases h
    exact (((setFB_keeps s _).trans (setFlag_keeps _ _)).trans (advance_keeps _)).mono
      (by simp [mayWrite]; tauto)
  | ldVxK x => exact execLdVxK_keeps h
  | ldDtVx x => cases h; exact ((setDT_keeps s _).trans (advance_keeps _)).mono (by simp [mayWrite])
  | ldStVx x => cases h; exact ((setST_keeps s _).trans (advance_keeps _)).mono (by simp [mayWrite])
  | ldB x =>
    cases h
    exact ((storeDigits_keeps s _).trans (advance_keeps _)).mono fun p hp => hp.symm
  | storeRegs x =>
    cases h
    exact ((storeBlock_keeps s _).trans (advance_keeps _)).mono fun p hp => hp.symm
  | loadRegs x =>
    cases h
    refine ((loadBlock_keeps s (x.toNat + 1) (by have := x.isLt; omega)).trans
      (advance_keeps _)).mono fun p hp => ?_
    rcases hp with ⟨k, hk, rfl⟩ | rfl
    · exact .inr ⟨k, by omega, rfl⟩
    · exact .inl rfl

end Sys2Proof.Machine
end

