-- ==== Sys2Proof/Tests/Slice0.lean ====
section
/-! SUPPORT. The model's own tests. Expected values are those of spec/95_test_vectors.md (the row is
named in each comment) or of the example of the instruction's rule. The last part shows, for each
statement with hypotheses, a concrete state and operands that meet them. -/

namespace Sys2Proof.Tests

open Sys2Proof.Machine

/-- The next state an outcome holds. -/
def after : Host.Outcome State Fault Refusal → Option State
  | .next s => some s
  | .fault _ => none
  | .refused _ => none

/-- The reset state with some registers set. -/
def withRegs (l : List (RegIdx × Byte)) : State :=
  l.foldl (fun s p => s.setV p.1 p.2) State.reset

/-- The reset state with some bytes stored. -/
def withBytes (l : List (Nat × Byte)) : State :=
  l.foldl (fun s p => s.writeByte p.1 p.2) State.reset

/-- The reset state with a word where the next step fetches. -/
def atWord (w : Nat) : State := State.reset.withFetchWord 16 w

/-- The keypad latch with exactly these keys down. -/
def keysDown (l : List Nat) : Vector Bool 16 := Vector.ofFn (fun j => l.contains j.val)

/-! ### Decoding: each constructor by a word written out from its row of R95 (95, part 3) -/

theorem test_decode_cls : decode 0x00E0 = .instr .cls := by decide
theorem test_decode_ret : decode 0x00EE = .instr .ret := by decide
theorem test_decode_jp : decode 0x1ABC = .instr (.jp 0xABC) := by decide
theorem test_decode_call : decode 0x2FFF = .instr (.call 0xFFF) := by decide
theorem test_decode_seImm : decode 0x3AFF = .instr (.seImm 0xA 0xFF) := by decide
theorem test_decode_sneImm : decode 0x412C = .instr (.sneImm 0x1 0x2C) := by decide
theorem test_decode_seReg : decode 0x5AB0 = .instr (.seReg 0xA 0xB) := by decide
theorem test_decode_ldImm : decode 0x6F00 = .instr (.ldImm 0xF 0x00) := by decide
theorem test_decode_addImm : decode 0x7003 = .instr (.addImm 0x0 0x03) := by decide
theorem test_decode_ldReg : decode 0x8AB0 = .instr (.ldReg 0xA 0xB) := by decide
theorem test_decode_orReg : decode 0x8AB1 = .instr (.orReg 0xA 0xB) := by decide
theorem test_decode_andReg : decode 0x8AB2 = .instr (.andReg 0xA 0xB) := by decide
theorem test_decode_xorReg : decode 0x8AB3 = .instr (.xorReg 0xA 0xB) := by decide
theorem test_decode_addReg : decode 0x8AB4 = .instr (.addReg 0xA 0xB) := by decide
theorem test_decode_subReg : decode 0x8AB5 = .instr (.subReg 0xA 0xB) := by decide
theorem test_decode_shrReg : decode 0x8AB6 = .instr (.shrReg 0xA 0xB) := by decide
theorem test_decode_subnReg : decode 0x8AB7 = .instr (.subnReg 0xA 0xB) := by decide
theorem test_decode_shlReg : decode 0x8ABE = .instr (.shlReg 0xA 0xB) := by decide
theorem test_decode_sneReg : decode 0x9AB0 = .instr (.sneReg 0xA 0xB) := by decide
theorem test_decode_ldI : decode 0xA123 = .instr (.ldI 0x123) := by decide
theorem test_decode_jpV0 : decode 0xBFFF = .instr (.jpV0 0xFFF) := by decide
theorem test_decode_rnd : decode 0xC10F = .instr (.rnd 0x1 0x0F) := by decide
theorem test_decode_drw : decode 0xDABF = .instr (.drw 0xA 0xB 0xF) := by decide
theorem test_decode_skp : decode 0xE59E = .instr (.skp 0x5) := by decide
theorem test_decode_sknp : decode 0xEFA1 = .instr (.sknp 0xF) := by decide
theorem test_decode_ldVxDt : decode 0xF107 = .instr (.ldVxDt 0x1) := by decide
theorem test_decode_ldVxK : decode 0xF20A = .instr (.ldVxK 0x2) := by decide
theorem test_decode_ldDtVx : decode 0xF315 = .instr (.ldDtVx 0x3) := by decide
theorem test_decode_ldStVx : decode 0xF418 = .instr (.ldStVx 0x4) := by decide
theorem test_decode_addI : decode 0xF51E = .instr (.addI 0x5) := by decide
theorem test_decode_ldF : decode 0xF629 = .instr (.ldF 0x6) := by decide
theorem test_decode_ldB : decode 0xF733 = .instr (.ldB 0x7) := by decide
theorem test_decode_storeRegs : decode 0xF855 = .instr (.storeRegs 0x8) := by decide
theorem test_decode_loadRegs : decode 0xFF65 = .instr (.loadRegs 0xF) := by decide

theorem test_decode_unknown : [0x0000, 0x0123, 0x00FD, 0x5AB1, 0x8AB8, 0x8ABF, 0x9AB5, 0xE09F,
    0xF000, 0xF075, 0xF090, 0xFFFF].all
    (fun w => decode (BitVec.ofNat 16 w) == .unknownOpcode (BitVec.ofNat 16 w)) = true := by decide

theorem test_decode_truncated : decodeBytes [0x12] = .truncated ∧
    decodeBytes [0x12, 0x34, 0x56] = .instr (.jp 0x234) [0x56] := by decide

theorem test_encode : encode (.drw 0xA 0xB 0xF) = 0xDABF ∧ encode (.subnReg 1 2) = 0x8127 ∧
    encode (.ldVxK 2) = 0xF20A ∧ encode (.call 0x20C) = 0x220C := by decide

theorem test_table_word : decodeTableWord 16 0xF265 = some (.loadRegs 2) ∧
    decodeTableWord 16 0x5AB1 = none := by decide

/-! ### WellFormed: an ill-formed term for each check, and the admitted neighbour -/

theorem test_wf_fixed : (Fields.fixed 0x00E1).wf = false ∧ (Fields.fixed 0x00EE).wf = true := by
  decide
theorem test_wf_addr_major : (Fields.addr 0x0 0x123).wf = false ∧ (Fields.addr 0xB 0x123).wf = true := by
  decide
theorem test_wf_addr_range : (Fields.addr 0x1 4096).wf = false ∧ (Fields.addr 0x1 4095).wf = true := by
  decide
theorem test_wf_byte_major : (Fields.regByte 0x5 1 2).wf = false ∧ (Fields.regByte 0xC 1 2).wf = true := by
  decide
theorem test_wf_byte_reg : (Fields.regByte 0x6 16 0).wf = false ∧ (Fields.regByte 0x6 15 0).wf = true := by
  decide
theorem test_wf_byte_range : (Fields.regByte 0x6 0 256).wf = false ∧ (Fields.regByte 0x6 0 255).wf = true := by
  decide
theorem test_wf_funct4 : (Fields.regReg 0x5 1 2 1).wf = false ∧ (Fields.regReg 0x8 1 2 8).wf = false ∧
    (Fields.regReg 0x8 1 2 0xE).wf = true := by decide
theorem test_wf_regs : (Fields.regReg 0x9 16 0 0).wf = false ∧ (Fields.regReg 0x9 0 16 0).wf = false ∧
    (Fields.regReg 0x9 15 15 0).wf = true := by decide
theorem test_wf_nibble : (Fields.regRegNibble 0xD 0 0 16).wf = false ∧
    (Fields.regRegNibble 0xE 0 0 1).wf = false ∧ (Fields.regRegNibble 0xD 16 0 1).wf = false ∧
    (Fields.regRegNibble 0xD 0 16 1).wf = false ∧ (Fields.regRegNibble 0xD 0 0 15).wf = true := by
  decide
theorem test_wf_funct8 : (Fields.reg 0xE 0 0x9F).wf = false ∧ (Fields.reg 0xF 0 0x30).wf = false ∧
    (Fields.reg 0xF 16 0x65).wf = false ∧ (Fields.reg 0xF 15 0x65).wf = true := by decide

/-! ### Instructions -/

/-- C1. -/
theorem test_ret : (after (exec (.ret) ({ State.reset with sp := 1, stack := State.reset.stack.set 0 0x234 }))).map
    (fun t => (t.pc, t.sp.val, t.stack[0])) = some (0x234, 0, 0x234) := by decide

/-- C3. -/
theorem test_ret_underflow : (after (exec (.ret) (State.reset))).map
    (fun t => (t.fault, t.pc, t.sp.val)) = some (.stackUnderflow, 0x200, 0) := by decide

/-- C6. -/
theorem test_jp_odd : (after (exec (.jp 0x201) (State.reset))).map
    (fun t => (t.pc, t.fault)) = some (0x201, .none) := by decide

/-- C8. -/
theorem test_call_top : (after (exec (.call 0x300) ({ State.reset with pc := 0xFFE }))).map
    (fun t => (t.stack[0], t.sp.val, t.pc)) = some (0x000, 1, 0x300) := by decide

/-- C10. -/
theorem test_call_overflow : (after (exec (.call 0x300) ({ State.reset with sp := 16 }))).map
    (fun t => (t.fault, t.pc, t.sp.val, t.stack[15])) = some (.stackOverflow, 0x200, 16, 0) := by decide

/-- C14. -/
theorem test_seImm_wrap : (after (exec (.seImm 0 0) ({ State.reset with pc := 0xFFE }))).map
    (fun t => (t.pc)) = some (0x002) := by decide

/-- C13. -/
theorem test_seImm_no : (after (exec (.seImm 3 0x43) (withRegs [(3, 0x42)]))).map
    (fun t => (t.pc)) = some (0x202) := by decide

/-- C17. -/
theorem test_sneImm : (after (exec (.sneImm 3 0x43) (withRegs [(3, 0x42)]))).map
    (fun t => (t.pc)) = some (0x204) := by decide

/-- C18. -/
theorem test_seReg : (after (exec (.seReg 1 2) (withRegs [(1, 7), (2, 7)]))).map
    (fun t => (t.pc)) = some (0x204) := by decide

/-- C23. -/
theorem test_sneReg : (after (exec (.sneReg 1 2) (withRegs [(1, 7), (2, 8)]))).map
    (fun t => (t.pc)) = some (0x204) := by decide

/-- C27. -/
theorem test_jpV0 : (after (exec (.jpV0 0xFFF) (withRegs [(0, 0xFF)]))).map
    (fun t => (t.pc)) = some (0x0FE) := by decide

/-- A1. -/
theorem test_ldImm : (after (exec (.ldImm 0xA 0x7F) (State.reset))).map
    (fun t => (t.getV 0xA, t.pc)) = some (0x7F, 0x202) := by decide

/-- A5. -/
theorem test_addImm : (after (exec (.addImm 0 1) (withRegs [(0, 0xFF), (0xF, 0x55)]))).map
    (fun t => (t.getV 0, t.getV 0xF)) = some (0x00, 0x55) := by decide

/-- A8. -/
theorem test_ldReg : (after (exec (.ldReg 1 2) (withRegs [(1, 1), (2, 0x99)]))).map
    (fun t => (t.getV 1, t.getV 2)) = some (0x99, 0x99) := by decide

/-- A10. -/
theorem test_orReg : (after (exec (.orReg 1 2) (withRegs [(1, 0xF0), (2, 0x0F), (0xF, 0x55)]))).map
    (fun t => (t.getV 1, t.getV 0xF)) = some (0xFF, 0x55) := by decide

/-- A11. -/
theorem test_andReg : (after (exec (.andReg 1 2) (withRegs [(1, 0xF0), (2, 0x3C), (0xF, 0x55)]))).map
    (fun t => (t.getV 1, t.getV 0xF)) = some (0x30, 0x55) := by decide

/-- A12. -/
theorem test_xorReg : (after (exec (.xorReg 1 2) (withRegs [(1, 0xF0), (2, 0x3C), (0xF, 0x55)]))).map
    (fun t => (t.getV 1, t.getV 0xF)) = some (0xCC, 0x55) := by decide

/-- A14. -/
theorem test_addReg : (after (exec (.addReg 1 2) (withRegs [(1, 0xC8), (2, 0x64)]))).map
    (fun t => (t.getV 1, t.getV 0xF)) = some (0x2C, 1) := by decide

/-- A21. -/
theorem test_addReg_vf : (after (exec (.addReg 0xF 1) (withRegs [(0xF, 3), (1, 4)]))).map
    (fun t => (t.getV 0xF)) = some (0) := by decide

/-- A24. -/
theorem test_subReg : (after (exec (.subReg 1 2) (withRegs [(1, 3), (2, 5), (0xF, 1)]))).map
    (fun t => (t.getV 1, t.getV 0xF)) = some (0xFE, 0) := by decide

/-- A25. -/
theorem test_subReg_equal : (after (exec (.subReg 1 2) (withRegs [(1, 5), (2, 5)]))).map
    (fun t => (t.getV 1, t.getV 0xF)) = some (0, 1) := by decide

/-- A32. -/
theorem test_shrReg : (after (exec (.shrReg 1 2) (withRegs [(1, 5), (2, 0xAA)]))).map
    (fun t => (t.getV 1, t.getV 0xF, t.getV 2)) = some (2, 1, 0xAA) := by decide

/-- A37. -/
theorem test_shrReg_vf : (after (exec (.shrReg 0xF 0) (withRegs [(0xF, 2)]))).map
    (fun t => (t.getV 0xF)) = some (0) := by decide

/-- A39. -/
theorem test_subnReg : (after (exec (.subnReg 1 2) (withRegs [(1, 5), (2, 3), (0xF, 1)]))).map
    (fun t => (t.getV 1, t.getV 0xF)) = some (0xFE, 0) := by decide

/-- A41. -/
theorem test_subnReg_vf : (after (exec (.subnReg 0xF 1) (withRegs [(0xF, 3), (1, 5)]))).map
    (fun t => (t.getV 0xF)) = some (1) := by decide

/-- A43. -/
theorem test_shlReg : (after (exec (.shlReg 1 2) (withRegs [(1, 0x81), (2, 0xAA)]))).map
    (fun t => (t.getV 1, t.getV 0xF)) = some (2, 1) := by decide

/-- A47. -/
theorem test_shlReg_vf : (after (exec (.shlReg 0xF 0) (withRegs [(0xF, 0x40)]))).map
    (fun t => (t.getV 0xF)) = some (0) := by decide

/-- A50, with the random byte as an argument. -/
theorem test_rnd_masks : (State.reset.randomMasked 1 0x0F 0xA7).getV 1 = 0x07 ∧
    (State.reset.randomMasked 1 0x0F 0xA7).draws = 1 := by decide

/-- M2. -/
theorem test_ldI : (after (exec (.ldI 0xFFF) (State.reset))).map
    (fun t => (t.i, t.pc)) = some (0x0FFF, 0x202) := by decide

/-- M5. -/
theorem test_addI : (after (exec (.addI 0) ({ withRegs [(0, 0xFF), (0xF, 0x55)] with i := 0xFFFF }))).map
    (fun t => (t.i, t.getV 0xF)) = some (0x00FE, 0x55) := by decide

/-- M8. -/
theorem test_ldF : (after (exec (.ldF 0) (withRegs [(0, 0x1A)]))).map
    (fun t => (t.i)) = some (0x0082) := by decide

/-- M17. -/
theorem test_ldB_wrap : (after (exec (.ldB 0) ({ withRegs [(0, 0x7B)] with i := 0x0FFE }))).map
    (fun t => (t.readByte 0xFFE, t.readByte 0xFFF, t.readByte 0, t.i)) = some (1, 2, 3, 0x0FFE) := by decide

/-- M20. -/
theorem test_storeRegs : (after (exec (.storeRegs 1) ({ withRegs [(0, 0x11), (1, 0x22), (2, 0x33)] with i := 0x0300 }))).map
    (fun t => (t.readByte 0x300, t.readByte 0x301, t.readByte 0x302, t.i)) = some (0x11, 0x22, 0, 0x0300) := by decide

/-- M21. -/
theorem test_storeRegs_wrap : (after (exec (.storeRegs 1) ({ withRegs [(0, 0x11), (1, 0x22)] with i := 0x0FFF }))).map
    (fun t => (t.readByte 0xFFF, t.readByte 0)) = some (0x11, 0x22) := by decide

/-- M24, with the default font. -/
theorem test_loadRegs : (after (exec (.loadRegs 4) ({ State.reset with i := 0x0050 }))).map
    (fun t => (t.getV 0, t.getV 3, t.getV 4, t.getV 5, t.i)) = some (0xF0, 0x90, 0xF0, 0, 0x0050) := by decide

/-- M26. -/
theorem test_loadRegs_wrap : (after (exec (.loadRegs 1) ({ withBytes [(0xFFF, 0xAB), (0, 0xCD)] with i := 0x0FFF }))).map
    (fun t => (t.getV 0, t.getV 1)) = some (0xAB, 0xCD) := by decide

/-- D1, one pixel of each edge row. -/
theorem test_cls : (after (exec (.cls) ({ State.reset with fb := Vector.replicate 32 0x8000000000000001 }))).map
    (fun t => (t.pixel 0 0, t.pixel 63 31, t.pc)) = some (false, false, 0x202) := by decide

/-- D6: the start is (63, 31), and glyph A wraps on both axes. -/
theorem test_drw_wraps : (after (exec (.drw 0 1 5) ({ withRegs [(0, 0xFF), (1, 0xFF)] with i := 0x0082 }))).map
    (fun t => ([t.pixel 63 31, t.pixel 2 31, t.pixel 3 31, t.pixel 63 0, t.pixel 0 0, t.pixel 2 3], t.getV 0xF)) = some ([true, true, false, true, false, true], 0) := by decide

/-- D8. -/
theorem test_drw_collision : (after (exec (.drw 0 0 1) ({ withBytes [(0x300, 0xFF)] with i := 0x0300, fb := State.reset.fb.set 0 1 }))).map
    (fun t => ([t.pixel 0 0, t.pixel 1 0, t.pixel 7 0, t.pixel 8 0], t.getV 0xF)) = some ([false, true, true, false], 1) := by decide

/-- K3. -/
theorem test_skp : (after (exec (.skp 0) ((withRegs [(0, 0x15)]).setKeys (keysDown [5])))).map
    (fun t => (t.pc)) = some (0x204) := by decide

/-- K7. -/
theorem test_sknp : (after (exec (.sknp 0) ((withRegs [(0, 0x25)]).setKeys (keysDown [5])))).map
    (fun t => (t.pc)) = some (0x202) := by decide

/-- K10. -/
theorem test_ldVxK_holds : (after (exec (.ldVxK 0) (State.reset))).map
    (fun t => (t.wait, t.pc, t.getV 0)) = some (true, 0x200, 0) := by decide

/-- K12, with WAIT left by a held step. -/
theorem test_ldVxK_lowest : (after (exec (.ldVxK 0) ((State.reset.setWait true).setKeys (keysDown [3, 9])))).map
    (fun t => (t.wait, t.pc, t.getV 0)) = some (false, 0x202, 3) := by decide

/-- K17. -/
theorem test_ldVxDt : (after (exec (.ldVxDt 1) ({ State.reset with dt := 0x2A }))).map
    (fun t => (t.getV 1, t.dt)) = some (0x2A, 0x2A) := by decide

/-- K19. -/
theorem test_ldDtVx : (after (exec (.ldDtVx 0) (withRegs [(0, 0x3C)]))).map
    (fun t => (t.dt, t.pc)) = some (0x3C, 0x202) := by decide

/-- K22. -/
theorem test_ldStVx : (after (exec (.ldStVx 0) ({ State.reset with st := 7 }))).map
    (fun t => (t.st, t.soundActive)) = some (0, false) := by decide

/-! ### The step and the host's operations -/

/-- S2, first step: the bytes 60 05 at 0x200. -/
theorem test_step_ldImm : (after (step (atWord 0x6005))).map (fun t => (t.getV 0, t.pc)) =
    some (0x05, 0x202) := by decide

/-- X1. -/
theorem test_step_unknown : (after (step (atWord 0x0000))).map (fun t => (t.pc, t.fault)) =
    some (0x202, .none) ∧ (atWord 0x0000).diagnostic = some ⟨0x200, 0x0000⟩ := by decide

/-- X2. -/
theorem test_step_unknown_halt :
    (after (step (State.resetOf ⟨defaultConfig.font, .halt⟩))).map (fun t => (t.pc, t.fault)) =
      some (0x200, .unknownOpcode) ∧
    (State.resetOf ⟨defaultConfig.font, .halt⟩).diagnostic = none := by decide

/-- X6. -/
theorem test_step_odd : (after (step { State.reset with pc := 0x201 })).map
    (fun t => (t.pc, t.faultCode)) = some (0x201, 3) := by decide

/-- X7. -/
theorem test_step_latched : (after (step ((atWord 0x6005).raiseFatal .stackOverflow))).map
    (fun t => (t.getV 0, t.pc, t.faultCode)) = some (0, 0x200, 1) := by decide

/-- T3, and T4's countdown with a fault latched. -/
theorem test_tick : ({ State.reset with st := 0xFF } : State).tickTimers.st = 0xFE ∧
    ({ State.reset with dt := 5, fault := .stackOverflow } : State).tickTimers.dt = 4 ∧
    State.reset.tickTimers.dt = 0 := by decide

/-- Y1. -/
theorem test_setKeys : ((State.reset.setKeys (keysDown [3, 9])).keyDown 3,
    (State.reset.setKeys (keysDown [3, 9])).keyDown 4) = (true, false) := by decide

/-- L5: reset state again, ROM in place, fault and keys cleared. -/
theorem test_load : (match ({ State.reset with fault := .stackOverflow, dt := 9 } : State).load
      [0x00, 0xE0, 0x12, 0x00] with
    | .ok t => some (t.readByte 0x201, t.readByte 0x204, t.readByte 0x050, t.fault, t.dt)
    | .error _ => none) = some (0xE0, 0x00, 0xF0, .none, 0) := by decide

/-- The default font ends with glyph F (R37). -/
theorem test_font_end : State.reset.readByte 0x09B = 0xF0 ∧ State.reset.readByte 0x09F = 0x80 ∧
    State.reset.readByte 0x0A0 = 0x00 ∧ State.reset.readByte 0x04F = 0x00 := by decide

/-- Storing what an unlisted address reads as leaves memory with nothing listed. -/
theorem test_memory_canonical : (State.reset.writeByte 0x050 0xF0).mem = [] ∧
    ((State.reset.writeByte 0x301 7).writeByte 0x300 8).mem = [(0x300, 8), (0x301, 7)] ∧
    ((State.reset.writeByte 0x301 7).writeByte 0x301 0).mem = [] := by decide

/-- The word placed for a step is the one the step runs; memory keeps its form. -/
theorem test_withFetchWord : step (atWord 0xD015) = exec (.drw 0 1 5) (atWord 0xD015) ∧
    Memory.wf (atWord 0xD015).cfg (atWord 0xD015).mem = true := ⟨rfl, by decide⟩

/-! ### Witnesses: the hypotheses of each statement can be met -/

theorem atWord_canFetch (w : Nat) : (atWord w).CanFetch := by
  refine ⟨by simp [atWord, State.withFetchWord], ?_⟩
  have h : (atWord w).pc = State.reset.pc := by simp [atWord, State.withFetchWord]; decide
  rw [h]; decide

/-- A word of an instruction, placed where the next step fetches, meets the invariant. -/
theorem inv_1201 : (atWord 0x1201).Inv :=
  ⟨by decide, by decide, by decide, by decide, (fun h => nomatch h), trivial⟩

theorem about_of (w : Nat) (i : Instr) (h : decode (atWord w).fetchWord = .instr i) :
    (atWord w).About i := ⟨atWord_canFetch w, h⟩

theorem witness_JumpStoresTheTarget : (atWord 0x1201).fault = .none ∧
    (0x201#12).toNat % 2 = 1 := by decide

theorem witness_CallPushesReturnAddress :
    State.reset.sp.val = (0 : Fin 16).val ∧
    ({ State.reset with sp := 15 } : State).sp.val = (15 : Fin 16).val := by decide

theorem witness_CallOnFullStackFaults : ({ State.reset with sp := 16 } : State).sp.val = 16 := rfl

theorem witness_RetPopsReturnAddress :
    ({ State.reset with sp := 1 } : State).sp.val = (0 : Fin 16).val + 1 ∧
    ({ State.reset with sp := 16 } : State).sp.val = (15 : Fin 16).val + 1 := by decide

theorem witness_RetOnEmptyStackFaults : State.reset.sp.val = 0 := rfl

/-- 220C at 0x200 and 00EE at 0x20C, as in S6, with SP = 15. -/
theorem witness_CallThenRetRoundTrip :
    let s := (({ atWord 0x220C with sp := 15 } : State).writeByte 0x20C 0x00).writeByte 0x20D 0xEE
    s.About (.call 0x20C) ∧ s.sp.val < 16 ∧ (0x20C#12).toNat % 2 = 0 ∧
      s.readByte (0x20C#12).toNat = 0x00 ∧ s.readByte ((0x20C#12).toNat + 1) = 0xEE :=
  ⟨⟨⟨rfl, rfl⟩, by decide⟩, by decide, by decide, by decide, by decide⟩

/-- Both outcomes of a skip occur. -/
theorem witness_RegisterSkips : (State.reset.getV 0).toNat = (0x00#8).toNat ∧
    (State.reset.getV 0).toNat ≠ (0x01#8).toNat := by decide

theorem witness_KeySkips : (5#4).toNat = ((withRegs [(0, 0xF5)]).getV 0).toNat % 16 ∧
    ((withRegs [(0, 0xF5)]).setKeys (keysDown [5])).keyDown 5 = true ∧
    (withRegs [(0, 0xF5)]).keyDown 5 = false := by decide

/-- Both flags and both kinds of destination occur, at the boundary sum 256. -/
theorem witness_AddSetsCarry : (0x1 : RegIdx) ≠ vf ∧
    256 ≤ ((withRegs [(1, 0xFF), (2, 1)]).getV 1).toNat + ((withRegs [(1, 0xFF), (2, 1)]).getV 2).toNat ∧
    ¬ 256 ≤ ((withRegs [(1, 0xFF)]).getV 1).toNat + ((withRegs [(1, 0xFF)]).getV 2).toNat := by decide

/-- Both flags occur for both orders, at equal operands and one below. -/
theorem witness_SubtractSetsNoBorrow : (0x1 : RegIdx) ≠ vf ∧
    ((withRegs [(1, 5), (2, 5)]).getV 2).toNat ≤ ((withRegs [(1, 5), (2, 5)]).getV 1).toNat ∧
    ¬ ((withRegs [(1, 4), (2, 5)]).getV 2).toNat ≤ ((withRegs [(1, 4), (2, 5)]).getV 1).toNat ∧
    ¬ ((withRegs [(1, 5), (2, 4)]).getV 1).toNat ≤ ((withRegs [(1, 5), (2, 4)]).getV 2).toNat := by
  decide

/-- Both bits moved out occur, left at 127 and 128. -/
theorem witness_ShiftsSetTheBitMovedOut : (0x1 : RegIdx) ≠ vf ∧
    ((withRegs [(1, 1)]).getV 1).toNat % 2 = 1 ∧ ¬ (State.reset.getV 1).toNat % 2 = 1 ∧
    128 ≤ ((withRegs [(1, 0x80)]).getV 1).toNat ∧
    ¬ 128 ≤ ((withRegs [(1, 0x7F)]).getV 1).toNat := by decide

/-- The last register of a block of 16, and of a block of 1. -/
theorem witness_RegisterBlocks : (0xF#4).toNat ≤ (0xF#4).toNat ∧ (0x0#4).toNat ≤ (0x0#4).toNat := by
  decide

/-- A state after the dump with its I and memory: the state after the dump itself. -/
theorem witness_DumpThenLoadRestoresRegisters (t : State) :
    t.i = t.i ∧ ∀ a, t.readByte a = t.readByte a := ⟨rfl, fun _ => rfl⟩

/-- The corner pixels are in range. -/
theorem witness_DrawXorsSpriteAndFlagsCollision :
    let s := { withBytes [(0x300, 0xFF)] with i := 0x0300, fb := State.reset.fb.set 0 1 }
    0 < 64 ∧ 63 < 64 ∧ 31 < 32 ∧ s.pixel 0 0 = true ∧ s.spriteBit 0 0 1 0 0 = true ∧
      s.pixel 63 31 = false ∧ s.spriteBit 0 0 1 63 31 = false := by decide

/-- With no row no pixel is hit, so the hypothesis of the clear VF is met. -/
theorem witness_DrawWithoutCollision (px py : Nat) : State.reset.spriteBit 0 0 0 px py = false := by
  simp [State.spriteBit]

/-- After a draw with X, Y ≠ F the drawn state itself is the state of the second draw. -/
theorem witness_DrawTwiceRestoresFramebuffer :
    let s := { withBytes [(0x300, 0xFF)] with i := 0x0300 }
    ∃ t, exec (.drw 1 2 1) s = .next t ∧ t.fb = t.fb ∧ t.i = s.i ∧
      (∀ a, t.readByte a = s.readByte a) ∧ t.getV 1 = s.getV 1 ∧ t.getV 2 = s.getV 2 :=
  ⟨_, rfl, rfl, rfl, fun _ => rfl, by decide, by decide⟩

theorem witness_KeyWaitHoldsWithNoKey : ∀ k, State.reset.keyDown k = false := by decide

theorem witness_KeyWaitTakesLowestKey :
    (State.reset.setKeys (keysDown [15])).keyDown 15 = true ∧
    (∀ j : KeyIdx, j.toNat < (15#4).toNat →
      (State.reset.setKeys (keysDown [15])).keyDown j = false) ∧
    (State.reset.setKeys (keysDown [0])).keyDown 0 = true := by decide

theorem witness_StepRunsTheDecodedInstruction : (atWord 0x6005).fault = .none ∧
    (atWord 0x6005).pc.toNat % 2 = 0 ∧
    decode (wordOfBytes ((atWord 0x6005).readByte (atWord 0x6005).pc.toNat)
      ((atWord 0x6005).readByte ((atWord 0x6005).pc.toNat + 1))) = .instr (.ldImm 0 5) := by decide

/-- At the last even address and at the first. -/
theorem witness_FetchIsBigEndian : ({ State.reset with pc := 0xFFE } : State).pc.toNat % 2 = 0 ∧
    ({ State.reset with pc := 0 } : State).pc.toNat % 2 = 0 := by decide

theorem witness_LatchedFaultStopsTheStep :
    (State.reset.raiseFatal .misalignedPC).fault ≠ .none := by decide

theorem witness_OddPcFaultsAtFetch : ({ State.reset with pc := 0xFFF } : State).fault = .none ∧
    ({ State.reset with pc := 0xFFF } : State).pc.toNat % 2 = 1 := by decide

theorem witness_UnknownOpcodeFollowsThePolicy :
    (State.reset.CanFetch ∧ decode State.reset.fetchWord = .unknownOpcode 0x0000 ∧
      State.reset.cfg.unknownOpcodePolicy = .skip) ∧
    ((State.resetOf ⟨defaultConfig.font, .halt⟩).CanFetch ∧
      decode (State.resetOf ⟨defaultConfig.font, .halt⟩).fetchWord = .unknownOpcode 0x0000 ∧
      (State.resetOf ⟨defaultConfig.font, .halt⟩).cfg.unknownOpcodePolicy = .halt) :=
  ⟨⟨⟨rfl, rfl⟩, by decide, rfl⟩, ⟨rfl, rfl⟩, by decide, rfl⟩

/-- 00EE at reset latches a fault. -/
theorem witness_FaultsArePrecise : ∃ t, step (atWord 0x00EE) = .next t ∧
    t.fault ≠ (atWord 0x00EE).fault := ⟨_, rfl, by decide⟩

/-- A step that changes the named part, for each clause. -/
theorem witness_OnlyTheseInstructionsWriteEachPart :
    (∃ t, step { atWord 0x00E0 with fb := State.reset.fb.set 0 1 } = .next t ∧
      t.fb ≠ State.reset.fb.set 0 1) ∧
    (∃ t, step { atWord 0xF015 with dt := 1 } = .next t ∧ t.dt ≠ 1) ∧
    (∃ t, step { atWord 0xF018 with st := 1 } = .next t ∧ t.st ≠ 1) ∧
    (∃ t, step (atWord 0xA300) = .next t ∧ t.i ≠ (atWord 0xA300).i) ∧
    (∃ t, step (atWord 0x2300) = .next t ∧ t.sp ≠ (atWord 0x2300).sp ∧
      t.stack[(0 : Fin 16)] ≠ (atWord 0x2300).stack[(0 : Fin 16)]) ∧
    (∃ t, step { atWord 0xF055 with i := 0x200 } = .next t ∧
      t.readByte 0x200 ≠ (atWord 0xF055).readByte 0x200) ∧
    (∃ t, step (atWord 0xF00A) = .next t ∧ t.wait ≠ (atWord 0xF00A).wait) ∧
    (∃ t, step (atWord 0xC000) = .next t ∧ t.draws ≠ (atWord 0xC000).draws) :=
  ⟨⟨_, rfl, by decide⟩, ⟨_, rfl, by decide⟩, ⟨_, rfl, by decide⟩, ⟨_, rfl, by decide⟩,
    ⟨_, rfl, by decide, by decide⟩, ⟨_, rfl, by decide⟩, ⟨_, rfl, by decide⟩, ⟨_, rfl, by decide⟩⟩

/-- VF changed as a flag, and a register changed as a destination. -/
theorem witness_OnlyDestinationsAndFlagsChange :
    (∃ t, step (atWord 0x8125) = .next t ∧ t.getV vf ≠ (atWord 0x8125).getV vf) ∧
    (∃ t, step (atWord 0x6105) = .next t ∧ t.getV 1 ≠ (atWord 0x6105).getV 1) :=
  ⟨⟨_, rfl, by decide⟩, ⟨_, rfl, by decide⟩⟩

theorem witness_OddPcComesFromAJump : ∃ t, (atWord 0x1201).Inv ∧ step (atWord 0x1201) = .next t ∧
    (atWord 0x1201).pc.toNat % 2 = 0 ∧ t.pc.toNat % 2 = 1 :=
  ⟨_, inv_1201, rfl, by decide, by decide⟩

theorem inv_F00A : (atWord 0xF00A).Inv :=
  ⟨by decide, by decide, by decide, by decide, (fun h => nomatch h), trivial⟩

/-- A step that leaves WAIT set, and (above) one that does not. -/
theorem witness_WaitMirrorsTheKeyWait : ∃ t, (atWord 0xF00A).Inv ∧
    (atWord 0xF00A).fault = .none ∧ step (atWord 0xF00A) = .next t ∧ t.wait = true :=
  ⟨_, inv_F00A, rfl, rfl, by decide⟩

theorem witness_IdleStateStays : (atWord 0x1200).Idle :=
  ⟨rfl, rfl, 0x200, by decide, by decide⟩

/-- M23: F155 at 0x200 with I = 0x0202 stores over the next word. -/
theorem witness_StoreIsSeenByTheNextFetch :
    let s := { atWord 0xF155 with i := 0x0202 }
    ∃ t, s.About (.storeRegs 1) ∧ step s = .next t ∧ (1#4).toNat = (0#4).toNat + 1 ∧
      (1#4).toNat ≤ (1#4).toNat ∧
      s.dataAddr (0#4).toNat % 4096 = (s.pc.toNat + 2) % 4096 :=
  ⟨_, ⟨⟨rfl, rfl⟩, by decide⟩, rfl, by decide, by decide, by decide⟩

theorem witness_OnlyKeyInstructionsReadTheKeypad : ∃ t, step (atWord 0x6005) = .next t ∧
    ∀ i, (atWord 0x6005).About i → ¬ i.readsKeys := by
  refine ⟨_, rfl, fun i h => ?_⟩
  rw [about_unique h (about_of 0x6005 (.ldImm 0 5) (by decide))]
  exact id

theorem witness_TickCommutesWithStep : ∃ t, step (atWord 0x6005) = .next t ∧
    ∀ i, (atWord 0x6005).About i → ¬ i.usesTimers := by
  refine ⟨_, rfl, fun i h => ?_⟩
  rw [about_unique h (about_of 0x6005 (.ldImm 0 5) (by decide))]
  exact id

theorem witness_InvariantIsKeptByEveryStep : ∃ t, (atWord 0x1201).Inv ∧
    step (atWord 0x1201) = .next t := ⟨_, inv_1201, rfl⟩

theorem witness_InvariantIsKeptByEveryHistory : (atWord 0x1201).Inv := inv_1201

theorem witness_EncodeOfDecode : decode 0xF265 = .instr (.loadRegs 2) ∧
    decode 0xF075 = .unknownOpcode 0xF075 := by decide

theorem witness_DecoderFollowsTheOpcodeTable :
    (⟨"JP_addr", 0xF000, 0x1000⟩ : OpcodeRow).selects 0x1ABC = true ∧
    (⟨"JP_addr", 0xF000, 0x1000⟩ : OpcodeRow) ∈ opcodeTable ∧
    (∀ r ∈ opcodeTable, r.selects 0x5AB1 = false) := by decide

theorem witness_WellFormedFieldsDecode : (Fields.regReg 0x8 15 15 0xE).wf = true := by decide

theorem witness_ReadAfterWrite : 0x1001 % 4096 = 0x001 % 4096 := by decide

theorem witness_ResetValues : (0xFFF : Nat) < 4096 ∧ ((0x04F : Nat) < 0x050 ∨ 0x0A0 ≤ 0x04F) ∧
    ((0x0A0 : Nat) < 0x050 ∨ 0x0A0 ≤ 0x0A0) := by decide

theorem witness_LoadCopiesTheRom : (List.replicate 3584 (0xAA : Byte)).length ≤ 3584 ∧
    3583 < (List.replicate 3584 (0xAA : Byte)).length := by
  simp only [List.length_replicate]; decide

theorem witness_OversizedRomIsRejected : 3584 < (List.replicate 3585 (0xAA : Byte)).length := by
  simp only [List.length_replicate]; decide

end Sys2Proof.Tests
end

section
/-! SUPPORT. What the instructions and the step do to the state (10_state.md): the table of R34 read
by columns, the invariant kept by every step, the keypad unread, and the reset values. -/

namespace Sys2Proof.Machine

/-! ### CALL, RET and LD Vx, K case by case (R120, R122, R212) -/

/-- The state after a `CALL` that does not fault: the push and the jump (R122). -/
def State.called (s : State) (nnn : Addr) (h : s.sp.val < 16) : State :=
  ({ s with stack := s.stack.set s.sp.val s.returnAddress h
            sp := ⟨s.sp.val + 1, by omega⟩ } : State).setPC nnn.toNat

/-- The state after a `RET` that does not fault: the pop into PC (R120). -/
def State.returned (s : State) (h : 0 < s.sp.val) : State :=
  ({ s with sp := ⟨s.sp.val - 1, by omega⟩ } : State).setPC (s.stack[s.sp.val - 1]'(by omega)).toNat

theorem execCall_full {s : State} (nnn : Addr) (h : s.sp.val = 16) :
    exec (.call nnn) s = .next (s.raiseFatal .stackOverflow) := by
  simp only [exec, execCall, push_full s _ h]

theorem execCall_push {s : State} (nnn : Addr) (h : s.sp.val < 16) :
    exec (.call nnn) s = .next (s.called nnn h) := by
  simp only [exec, execCall, State.push, dif_pos h, State.called]

theorem execRet_empty {s : State} (h : s.sp.val = 0) :
    exec .ret s = .next (s.raiseFatal .stackUnderflow) := by
  simp only [exec, execRet, pop_empty s h]

theorem execRet_pop {s : State} (h : 0 < s.sp.val) :
    exec .ret s = .next (s.returned h) := by
  simp only [exec, execRet, State.pop, dif_pos h, State.returned]

/-- `CALL` faults on a full stack, or pushes and jumps. -/
theorem execCall_cases {nnn : Addr} {s t : State} (h : exec (.call nnn) s = .next t) :
    (s.sp.val = 16 ∧ t = s.raiseFatal .stackOverflow) ∨
    ∃ hs : s.sp.val < 16, t = s.called nnn hs := by
  by_cases hs : s.sp.val < 16
  · exact .inr ⟨hs, Host.Outcome.next.inj (h.symm.trans (execCall_push nnn hs))⟩
  · have hs : s.sp.val = 16 := by omega
    exact .inl ⟨hs, Host.Outcome.next.inj (h.symm.trans (execCall_full nnn hs))⟩

/-- `RET` faults on an empty stack, or pops into PC. -/
theorem execRet_cases {s t : State} (h : exec .ret s = .next t) :
    (s.sp.val = 0 ∧ t = s.raiseFatal .stackUnderflow) ∨
    ∃ hs : 0 < s.sp.val, t = s.returned hs := by
  by_cases hs : 0 < s.sp.val
  · exact .inr ⟨hs, Host.Outcome.next.inj (h.symm.trans (execRet_pop hs))⟩
  · have hs : s.sp.val = 0 := by omega
    exact .inl ⟨hs, Host.Outcome.next.inj (h.symm.trans (execRet_empty hs))⟩

theorem mem_allKeys : ∀ k : KeyIdx, k ∈ allKeys := by decide

theorem lowestKey_eq_none_iff (s : State) : s.lowestKey = none ↔ ∀ k, s.keyDown k = false := by
  simp [State.lowestKey, mem_allKeys]

/-- `LD Vx, K` waits when no key is down, and otherwise takes the smallest key. -/
theorem execLdVxK_cases {x : RegIdx} {s t : State} (h : exec (.ldVxK x) s = .next t) :
    (s.lowestKey = none ∧ t = s.setWait true) ∨
    ∃ k, s.lowestKey = some k ∧ t = ((s.setV x (keyByte k)).setWait false).advance := by
  simp only [exec, execLdVxK] at h
  split at h
  next hk => cases h; exact .inl ⟨hk, rfl⟩
  next k hk => cases h; exact .inr ⟨k, hk, rfl⟩

theorem execLdVxK_wait {x : RegIdx} {s t : State} (h : exec (.ldVxK x) s = .next t) :
    t.wait = true ↔ ∀ k, s.keyDown k = false := by
  rw [← lowestKey_eq_none_iff]
  obtain ⟨hk, rfl⟩ | ⟨k, hk, rfl⟩ := execLdVxK_cases h
  · simp [hk]
  · simp [hk]

/-! ### The table of R34 read by columns -/

/-- The instructions that may write a part. Almost every instruction writes PC, and no claim needs
that column. -/
def Part.writer : Part → Instr → Prop
  | .reg r, i => i.hasDest r ∨ (r = vf ∧ i.writesFlag)
  | .index, i => (∃ nnn, i = .ldI nnn) ∨ ∃ x, i = .addI x ∨ i = .ldF x
  | .sp, i | .faultLatch, i => i = .ret ∨ ∃ nnn, i = .call nnn
  | .stackSlot _, i => ∃ nnn, i = .call nnn
  | .delayTimer, i => ∃ x, i = .ldDtVx x
  | .soundTimer, i => ∃ x, i = .ldStVx x
  | .framebuffer, i => i = .cls ∨ ∃ x y n, i = .drw x y n
  | .memByte _, i => ∃ x, i = .ldB x ∨ i = .storeRegs x
  | .waitFlag, i => ∃ x, i = .ldVxK x
  | .draws, i => ∃ x kk, i = .rnd x kk
  | .key _, _ | .config, _ => False
  | .pc, _ => True

/-- The rows of R34's table (`mayWrite`) agree with its columns. -/
theorem writer_of_mayWrite {s : State} {i : Instr} {p : Part} (h : mayWrite s i p) :
    p.writer i := by
  cases p with
  | reg r =>
    cases i <;> simp_all [mayWrite, IndexedByte, Part.writer, Instr.hasDest, Instr.writesFlag,
      eq_comm]
  | pc => trivial
  | _ => cases i <;> simp_all [mayWrite, IndexedByte, Part.writer]

/-- A part that an instruction changes is one that it writes. -/
theorem exec_writer {i : Instr} {s t : State} (h : exec i s = .next t) {p : Part}
    (hp : ¬ p.same s t) : p.writer i :=
  writer_of_mayWrite (not_imp_comm.mp (exec_keeps h p) hp)

/-- A part other than PC and FAULT changes only by the fetched instruction, which writes it. -/
theorem step_writer {s t : State} (h : step s = .next t) {p : Part} (hp : ¬ p.same s t)
    (hpc : p ≠ .pc) (hf : p ≠ .faultLatch) :
    ∃ i, s.About i ∧ exec i s = .next t ∧ p.writer i := by
  obtain ⟨-, hs⟩ | ⟨-, -, hs⟩ | ⟨i, hi, hs⟩ | ⟨op, -, -, hs⟩ := step_cases s <;> rw [hs] at h
  · cases h
    exact absurd (Keeps.refl (fun _ => False) s p id) hp
  · cases h
    exact absurd (raiseFatal_keeps s _ p hf) hp
  · exact ⟨i, hi, h, exec_writer h hp⟩
  · cases h
    exact absurd (unknownOpcode_keeps s p (by simp [hpc, hf])) hp

/-! ### Flags (R21) -/

theorem flagByte_zero_or_one (f : Bool) : (flagByte f).toNat = 0 ∨ (flagByte f).toNat = 1 := by
  cases f <;> decide

/-- Each of the six flag writers leaves a flag in VF (R21, R153). -/
theorem exec_writesFlag_vf {i : Instr} {s t : State} (h : exec i s = .next t)
    (hi : i.writesFlag) : ∃ f, t.getV vf = flagByte f := by
  cases i with
  | addReg x y | subReg x y | shrReg x y | subnReg x y | shlReg x y =>
    cases h
    exact ⟨_, resultThenFlag_vf s x _ _⟩
  | drw x y n => cases h; exact ⟨_, by rw [advance_getV, setFlag_eq, setV_getV_same]⟩
  | _ => exact hi.elim

/-! ### PC, memory, stack and FAULT after an instruction -/

theorem loadBlock_mem (s : State) (n : Nat) : (s.loadBlock n).mem = s.mem := by
  induction n with
  | zero => rfl
  | succ n ih => exact ih

theorem skipIf_eq_setPC (s : State) (c : Bool) : ∃ n, s.skipIf c = s.setPC n := by
  cases c
  · exact ⟨_, rfl⟩
  · exact ⟨_, rfl⟩

theorem skipIf_mem (s : State) (c : Bool) : (s.skipIf c).mem = s.mem := by
  obtain ⟨n, hn⟩ := skipIf_eq_setPC s c
  rw [hn, setPC_mem]

/-- Every instruction holds PC or ends in a write to PC (R23). -/
theorem exec_pc_cases {i : Instr} {s t : State} (h : exec i s = .next t) :
    t.pc = s.pc ∨ ∃ u n, t = State.setPC u n := by
  cases i with
  | seImm | sneImm | seReg | sneReg | skp | sknp => cases h; exact .inr ⟨s, skipIf_eq_setPC s _⟩
  | call nnn =>
    obtain ⟨-, rfl⟩ | ⟨hs, rfl⟩ := execCall_cases h
    · exact .inl rfl
    · exact .inr ⟨_, _, rfl⟩
  | ret =>
    obtain ⟨-, rfl⟩ | ⟨hs, rfl⟩ := execRet_cases h
    · exact .inl rfl
    · exact .inr ⟨_, _, rfl⟩
  | ldVxK x =>
    obtain ⟨-, rfl⟩ | ⟨k, -, rfl⟩ := execLdVxK_cases h
    · exact .inl rfl
    · exact .inr ⟨_, _, rfl⟩
  | _ => cases h; exact .inr ⟨_, _, rfl⟩

theorem exec_pc_lt {i : Instr} {s t : State} (h : exec i s = .next t)
    (hs : s.pc.toNat < 4096) : t.pc.toNat < 4096 := by
  obtain hpc | ⟨u, n, rfl⟩ := exec_pc_cases h
  · rw [hpc]; exact hs
  · rw [setPC_toNat]; omega

/-- Memory is the same list of cells, or what one of the two storing operations leaves. -/
theorem exec_mem_cases {i : Instr} {s t : State} (h : exec i s = .next t) :
    t.mem = s.mem ∨ (∃ b, t.mem = (s.storeDigits b).mem) ∨ ∃ n, t.mem = (s.storeBlock n).mem := by
  cases i with
  | ldB x => cases h; exact .inr (.inl ⟨_, rfl⟩)
  | storeRegs x => cases h; exact .inr (.inr ⟨_, rfl⟩)
  | loadRegs x => cases h; exact .inl (loadBlock_mem s _)
  | seImm | sneImm | seReg | sneReg | skp | sknp => cases h; exact .inl (skipIf_mem s _)
  | call nnn => obtain ⟨-, rfl⟩ | ⟨hs, rfl⟩ := execCall_cases h <;> exact .inl rfl
  | ret => obtain ⟨-, rfl⟩ | ⟨hs, rfl⟩ := execRet_cases h <;> exact .inl rfl
  | ldVxK x => obtain ⟨-, rfl⟩ | ⟨k, -, rfl⟩ := execLdVxK_cases h <;> exact .inl rfl
  | _ => cases h; exact .inl rfl

theorem exec_cfg {i : Instr} {s t : State} (h : exec i s = .next t) : t.cfg = s.cfg := by
  by_contra hp
  exact exec_writer h (p := .config) hp

/-- Every instruction keeps the canonical form of memory. -/
theorem exec_wf {i : Instr} {s t : State} (h : exec i s = .next t)
    (hs : Memory.wf s.cfg s.mem = true) : Memory.wf t.cfg t.mem = true := by
  rw [exec_cfg h]
  obtain hm | ⟨b, hm⟩ | ⟨n, hm⟩ := exec_mem_cases h <;> rw [hm]
  · exact hs
  · exact storeDigits_wf b hs
  · exact storeBlock_cfg s n ▸ storeBlock_wf n hs

theorem returnAddress_toNat (s : State) : s.returnAddress.toNat = (s.pc.toNat + 2) % 4096 := by
  simp only [State.returnAddress, BitVec.toNat_ofNat]; omega

/-- A stack slot keeps its value or holds the return address (R25, R122). -/
theorem exec_stackSlot_cases {i : Instr} {s t : State} (h : exec i s = .next t) (j : Fin 16) :
    t.stack[j] = s.stack[j] ∨ t.stack[j] = s.returnAddress := by
  by_contra! hp
  obtain ⟨nnn, rfl⟩ := exec_writer h (p := .stackSlot j) hp.1
  obtain ⟨-, rfl⟩ | ⟨hs, rfl⟩ := execCall_cases h
  · exact hp.1 rfl
  · by_cases hj : s.sp.val = j.val <;> simp [State.called, hj] at hp

/-- An instruction keeps FAULT, or is one of the two that can fault and only latches its cause. -/
theorem exec_fault_cases {i : Instr} {s t : State} (h : exec i s = .next t) :
    t.fault = s.fault ∨ (i = .ret ∧ s.sp.val = 0 ∧ t = s.raiseFatal .stackUnderflow) ∨
      ∃ nnn, i = .call nnn ∧ s.sp.val = 16 ∧ t = s.raiseFatal .stackOverflow := by
  by_cases hp : t.fault = s.fault
  · exact .inl hp
  · obtain rfl | ⟨nnn, rfl⟩ := exec_writer h (p := .faultLatch) hp
    · obtain ⟨hs, ht⟩ | ⟨hs, rfl⟩ := execRet_cases h
      · exact .inr (.inl ⟨rfl, hs, ht⟩)
      · exact absurd rfl hp
    · obtain ⟨hs, ht⟩ | ⟨hs, rfl⟩ := execCall_cases h
      · exact .inr (.inr ⟨nnn, rfl, hs, ht⟩)
      · exact absurd rfl hp

/-! ### The invariant, part by part -/

/-- With no `LD Vx, K` at PC, the invariant says that WAIT is 0. -/
theorem State.Inv.wait_eq_false {s : State} (hs : s.Inv) (h : ∀ x, ¬ s.About (.ldVxK x)) :
    s.wait = false := by
  by_contra hw
  obtain ⟨x, hx⟩ := hs.waiting (eq_true_of_ne_false hw)
  exact h x hx

/-- Latching a fault keeps the invariant when WAIT is 0 and the state explains the cause. -/
theorem State.Inv.raiseFatal {s : State} {c : FaultCause} (hs : s.Inv) (hw : s.wait = false)
    (hc : (s.raiseFatal c).FaultExplained) : (s.raiseFatal c).Inv where
  memory := hs.memory
  pcRange := hs.pcRange
  stackRange := hs.stackRange
  stackEven := hs.stackEven
  waiting := fun h => absurd (hw.symm.trans h) nofun
  faulted := hc

theorem faultExplained_of_none {s : State} (h : s.fault = .none) : s.FaultExplained := by
  simp [State.FaultExplained, h]

/-- Moving PC in a running state that does not wait keeps the invariant. -/
theorem State.Inv.setPC {s : State} (n : Nat) (hs : s.Inv) (hw : s.wait = false)
    (hf : s.fault = .none) : (s.setPC n).Inv where
  memory := hs.memory
  pcRange := by rw [setPC_toNat]; omega
  stackRange := hs.stackRange
  stackEven := hs.stackEven
  waiting := fun h => absurd (hw.symm.trans h) nofun
  faulted := faultExplained_of_none hf

/-- WAIT set after an instruction means that PC still holds the address of an `LD Vx, K`. -/
theorem exec_waiting {i : Instr} {s t : State} (hs : s.Inv) (hi : s.About i)
    (h : exec i s = .next t) (hw : t.wait = true) : ∃ x, t.About (.ldVxK x) := by
  by_cases hx : ∃ x, i = .ldVxK x
  · obtain ⟨x, rfl⟩ := hx
    obtain ⟨-, rfl⟩ | ⟨k, -, rfl⟩ := execLdVxK_cases h
    · exact ⟨x, hi⟩
    · cases hw
  · have h0 : s.wait = false := hs.wait_eq_false fun x h' => hx ⟨x, about_unique hi h'⟩
    have hp : t.wait ≠ s.wait := by simp [hw, h0]
    exact absurd (exec_writer h (p := .waitFlag) hp) hx

/-- The fetched instruction keeps the invariant. -/
theorem State.Inv.exec {i : Instr} {s t : State} (hs : s.Inv) (hi : s.About i)
    (h : exec i s = .next t) : t.Inv := by
  obtain hf | ⟨rfl, hsp, rfl⟩ | ⟨nnn, rfl, hsp, rfl⟩ := exec_fault_cases h
  · have hret := returnAddress_toNat s
    have heven := hi.1.2
    refine ⟨exec_wf h hs.memory, exec_pc_lt h hs.pcRange, fun j => ?_, fun j => ?_,
      exec_waiting hs hi h, faultExplained_of_none (hf.trans hi.1.1)⟩
    · obtain hj | hj := exec_stackSlot_cases h j <;> rw [hj]
      · exact hs.stackRange j
      · omega
    · obtain hj | hj := exec_stackSlot_cases h j <;> rw [hj]
      · exact hs.stackEven j
      · omega
  · exact hs.raiseFatal (hs.wait_eq_false fun x hx => nomatch about_unique hi hx)
      ⟨hsp, hi.1.2, hi.2⟩
  · exact hs.raiseFatal (hs.wait_eq_false fun x hx => nomatch about_unique hi hx)
      ⟨hsp, hi.1.2, nnn, hi.2⟩

/-- An unknown opcode keeps the invariant under both policies (R236). -/
theorem State.Inv.unknownOpcode {s : State} {op : Word} (hs : s.Inv) (hc : s.CanFetch)
    (hd : decode s.fetchWord = .unknownOpcode op) : s.unknownOpcode.Inv := by
  have hw : s.wait = false := hs.wait_eq_false fun x hx => nomatch hd.symm.trans hx.2
  unfold State.unknownOpcode
  split
  next => exact hs.setPC _ hw hc.1
  next hp => exact hs.raiseFatal hw ⟨hp, hc.2, op, hd⟩

/-! ### The keypad is not read (R29): operations commute with a change of the keypad -/

section
variable (s : State) (k : Vector Bool 16)

theorem skipIf_setKeys (c : Bool) : (s.setKeys k).skipIf c = (s.skipIf c).setKeys k := by
  cases c
  · rfl
  · rfl

theorem unknownOpcode_setKeys : (s.setKeys k).unknownOpcode = s.unknownOpcode.setKeys k := by
  simp only [State.unknownOpcode, setKeys_cfg]
  cases s.cfg.unknownOpcodePolicy
  · rfl
  · rfl

theorem storeBlock_setKeys (n : Nat) : (s.setKeys k).storeBlock n = (s.storeBlock n).setKeys k := by
  induction n with
  | zero => rfl
  | succ n ih => rw [State.storeBlock, ih]; rfl

theorem loadBlock_setKeys (n : Nat) : (s.setKeys k).loadBlock n = (s.loadBlock n).setKeys k := by
  induction n with
  | zero => rfl
  | succ n ih => rw [State.loadBlock, ih]; rfl

theorem drawRows_setKeys (x y n : Nat) (b : Blit) :
    (s.setKeys k).drawRows x y n b = s.drawRows x y n b := by
  induction n with
  | zero => rfl
  | succ n ih => rw [State.drawRows, ih]; rfl

theorem blit_setKeys (x y : Byte) (n : Nibble) : (s.setKeys k).blit x y n = s.blit x y n :=
  drawRows_setKeys s k _ _ _ _

end

/-- An instruction that does not read the keypad commutes with a change of it. -/
theorem exec_setKeys {i : Instr} {s t : State} (k : Vector Bool 16) (h : exec i s = .next t)
    (hi : ¬ i.readsKeys) : exec i (s.setKeys k) = .next (t.setKeys k) := by
  cases i with
  | skp | sknp | ldVxK => exact absurd trivial hi
  | seImm | sneImm | seReg | sneReg =>
    cases h
    exact congrArg Host.Outcome.next (skipIf_setKeys s k _)
  | call nnn =>
    obtain ⟨hs, rfl⟩ | ⟨hs, rfl⟩ := execCall_cases h
    · exact execCall_full (s := s.setKeys k) nnn hs
    · exact execCall_push (s := s.setKeys k) nnn hs
  | ret =>
    obtain ⟨hs, rfl⟩ | ⟨hs, rfl⟩ := execRet_cases h
    · exact execRet_empty (s := s.setKeys k) hs
    · exact execRet_pop (s := s.setKeys k) hs
  | drw x y n =>
    cases h
    simp only [exec, execDrw, blit_setKeys, setKeys_getV]
    rfl
  | storeRegs x =>
    cases h
    simp only [exec, execStoreRegs, storeBlock_setKeys]
    rfl
  | loadRegs x =>
    cases h
    simp only [exec, execLoadRegs, loadBlock_setKeys]
    rfl
  | _ => cases h; rfl

/-! ### Reset (R36, R270) -/

theorem resetOf_stack (c : Config) (j : Fin 16) : (State.resetOf c).stack[j] = 0 := by
  simp [State.resetOf]

theorem hostReset_getV (s : State) (r : RegIdx) : s.hostReset.getV r = 0 := by
  simp [State.hostReset, State.resetOf, State.getV]

theorem hostReset_pixel (s : State) (x y : Nat) : s.hostReset.pixel x y = false :=
  get_clear x y

theorem hostReset_keyDown (s : State) (k : KeyIdx) : s.hostReset.keyDown k = false := by
  simp [State.hostReset, State.resetOf, State.keyDown]

/-- After a reset every address reads as the reset contents. -/
theorem hostReset_readByte (s : State) (a : Nat) :
    s.hostReset.readByte a = Memory.unlisted s.cfg (a % 4096) := rfl

theorem unlisted_font (c : Config) (j : Fin 80) :
    Memory.unlisted c (0x050 + j.val) = c.font[j] := by
  have hj : 0x050 ≤ 0x050 + j.val ∧ 0x050 + j.val < 0x0A0 := by omega
  simp [Memory.unlisted, hj]

theorem unlisted_zero (c : Config) {a : Nat} (h : a < 0x050 ∨ 0x0A0 ≤ a) :
    Memory.unlisted c a = 0 :=
  dif_neg (by omega)

/-! ### The statements -/

/-- Settles O47: the four things a step can be, each keeping the invariant. -/
theorem invariantIsKeptByEveryStep : Obligations.InvariantIsKeptByEveryStep := by
  intro s t hs h
  obtain ⟨-, ht⟩ | ⟨-, hodd, ht⟩ | ⟨i, hi, -⟩ | ⟨op, hc, hd, ht⟩ := step_cases s
  · cases ht.symm.trans h
    exact hs
  · cases ht.symm.trans h
    refine hs.raiseFatal (hs.wait_eq_false fun x hx => ?_) hodd
    have := hx.1.2
    omega
  · exact hs.exec hi ((step_of_about hi).symm.trans h)
  · cases ht.symm.trans h
    exact hs.unknownOpcode hc hd

/-- Settles O38: each clause is the column of R34's table for one part. -/
theorem onlyTheseInstructionsWriteEachPart : Obligations.OnlyTheseInstructionsWriteEachPart := by
  intro s t h
  refine ⟨fun k => ?key, ?config, fun hp => ?fb, fun hp => ?dt, fun hp => ?st, fun hp => ?i,
    fun hp => ?sp, fun j hp => ?slot, fun a hp => ?mem, fun hp => ?wait, fun hp => ?draws⟩
  case key =>
    by_contra hp
    obtain ⟨i, -, -, hw⟩ := step_writer h (p := .key k) hp nofun nofun
    exact hw
  case config =>
    by_contra hp
    obtain ⟨i, -, -, hw⟩ := step_writer h (p := .config) hp nofun nofun
    exact hw
  case fb =>
    obtain ⟨i, hi, -, rfl | ⟨x, y, n, rfl⟩⟩ := step_writer h (p := .framebuffer) hp nofun nofun
    · exact .inl hi
    · exact .inr ⟨x, y, n, hi⟩
  case dt =>
    obtain ⟨i, hi, -, x, rfl⟩ := step_writer h (p := .delayTimer) hp nofun nofun
    exact ⟨x, hi⟩
  case st =>
    obtain ⟨i, hi, -, x, rfl⟩ := step_writer h (p := .soundTimer) hp nofun nofun
    exact ⟨x, hi⟩
  case i =>
    obtain ⟨i, hi, -, ⟨nnn, rfl⟩ | ⟨x, rfl | rfl⟩⟩ := step_writer h (p := .index) hp nofun nofun
    · exact .inl ⟨nnn, hi⟩
    · exact .inr ⟨x, .inl hi⟩
    · exact .inr ⟨x, .inr hi⟩
  case sp =>
    obtain ⟨i, hi, -, rfl | ⟨nnn, rfl⟩⟩ := step_writer h (p := .sp) hp nofun nofun
    · exact .inl hi
    · exact .inr ⟨nnn, hi⟩
  case slot =>
    obtain ⟨i, hi, -, nnn, rfl⟩ := step_writer h (p := .stackSlot j) hp nofun nofun
    exact ⟨nnn, hi⟩
  case mem =>
    obtain ⟨i, hi, -, x, rfl | rfl⟩ := step_writer h (p := .memByte a) hp nofun nofun
    · exact ⟨x, .inl hi⟩
    · exact ⟨x, .inr hi⟩
  case wait =>
    obtain ⟨i, hi, -, x, rfl⟩ := step_writer h (p := .waitFlag) hp nofun nofun
    exact ⟨x, hi⟩
  case draws =>
    obtain ⟨i, hi, -, x, kk, rfl⟩ := step_writer h (p := .draws) hp nofun nofun
    exact ⟨x, kk, hi⟩

/-- Settles O39: a changed register is in the fetched instruction's column of R34's table, and a
flag writer's VF is a flag. -/
theorem onlyDestinationsAndFlagsChange : Obligations.OnlyDestinationsAndFlagsChange := by
  intro r s t h hp
  obtain ⟨i, hi, he, hd | ⟨rfl, hw⟩⟩ := step_writer h (p := .reg r) hp nofun nofun
  · exact ⟨i, hi, .inl hd⟩
  · obtain ⟨f, hf⟩ := exec_writesFlag_vf he hw
    exact ⟨i, hi, .inr ⟨rfl, hw, hf ▸ flagByte_zero_or_one f⟩⟩

/-- Settles O41: `LD Vx, K` sets WAIT by the keypad; any other step keeps it, and it was 0. -/
theorem waitMirrorsTheKeyWait : Obligations.WaitMirrorsTheKeyWait := by
  intro s t hs _ h
  by_cases hx : ∃ x, s.About (.ldVxK x)
  · obtain ⟨x, hx'⟩ := hx
    rw [step_of_about hx'] at h
    rw [execLdVxK_wait h]
    exact ⟨fun hk => ⟨⟨x, hx'⟩, hk⟩, And.right⟩
  · have hw : t.wait = s.wait := by
      by_contra hp
      obtain ⟨i, hi, -, x, rfl⟩ := step_writer h (p := .waitFlag) hp nofun nofun
      exact hx ⟨x, hi⟩
    have h0 : s.wait = false := hs.wait_eq_false fun x hx' => hx ⟨x, hx'⟩
    simp [hw, h0, hx]

/-- Settles O44: the step takes the same branch with either keypad, and each branch commutes with
the change. -/
theorem onlyKeyInstructionsReadTheKeypad : Obligations.OnlyKeyInstructionsReadTheKeypad := by
  intro k s t h hi
  obtain ⟨hf, ht⟩ | ⟨hf, hodd, ht⟩ | ⟨i, ha, ht⟩ | ⟨op, hc, hd, ht⟩ := step_cases s
  · cases ht.symm.trans h
    exact step_of_fault (s := s.setKeys k) hf
  · cases ht.symm.trans h
    exact step_of_odd (s := s.setKeys k) hf hodd
  · have ha' : (s.setKeys k).About i := ha
    rw [step_of_about ha']
    exact exec_setKeys k (ht.symm.trans h) (hi i ha)
  · cases ht.symm.trans h
    rw [← unknownOpcode_setKeys]
    exact step_of_unknown (s := s.setKeys k) hc hd

/-- Settles O57: `reset` answers `hostReset`, whose parts the lemmas above read off. -/
theorem resetValues : Obligations.ResetValues := by
  intro s
  refine ⟨s.hostReset, rfl, hostReset_getV s, rfl, rfl, rfl, resetOf_stack s.cfg, rfl, rfl,
    fun px py _ _ => hostReset_pixel s px py, hostReset_keyDown s, rfl, rfl, rfl, rfl,
    fun j => ?_, fun a ha h => ?_⟩
  · rw [hostReset_readByte, Nat.mod_eq_of_lt (by omega), unlisted_font]
  · rw [hostReset_readByte, Nat.mod_eq_of_lt ha, unlisted_zero s.cfg h]

/-- Settles O46: the reset state latches no fault, does not wait, and its stack is zero. -/
theorem invariantHoldsAtReset : Obligations.InvariantHoldsAtReset := fun c => {
  memory := reset_wf c
  pcRange := (by decide : (0x200#16).toNat < 4096)
  stackRange := fun j => by rw [resetOf_stack]; decide
  stackEven := fun j => by rw [resetOf_stack]; decide
  waiting := nofun
  faulted := trivial }

end Sys2Proof.Machine
end

section
/-! SUPPORT. Memory and the fetch (20_memory.md): the wrap of addresses, a read after a write, the
order of the two bytes of a word, and a store seen by the next fetch. -/

namespace Sys2Proof.Machine

/-! ### The two bytes a fetch reads (R62) -/

/-- A fetch reads any two addresses that agree mod 4096 with PC and PC + 1 (R61, R62). -/
theorem fetchWord_of_congr {s : State} {a b : Nat} (ha : s.pc.toNat % 4096 = a % 4096)
    (hb : (s.pc.toNat + 1) % 4096 = b % 4096) :
    s.fetchWord = wordOfBytes (s.readByte a) (s.readByte b) := by
  rw [State.fetchWord, readByte_congr s ha, readByte_congr s hb]

/-- The two bytes stored at PC and PC + 1 are the two halves of the fetched word: the addresses
differ mod 4096, so the second store leaves the first byte alone. -/
theorem fetchWord_writeByte_writeByte (s : State) (hi lo : Byte) :
    ((s.writeByte s.pc.toNat hi).writeByte (s.pc.toNat + 1) lo).fetchWord =
      wordOfBytes hi lo := by
  have hne : s.pc.toNat % 4096 ≠ (s.pc.toNat + 1) % 4096 := by omega
  simp [State.fetchWord, writeByte_readByte, hne]

/-! ### The memory after a register dump (R174) -/

theorem execStoreRegs_eq (x : RegIdx) (s : State) :
    exec (.storeRegs x) s = .next (s.storeBlock (x.toNat + 1)).advance := rfl

/-- After a dump of V0 to Vx, the byte at I + k is Vk for every register k up to x. -/
theorem storeBlock_readByte_reg (s : State) {k x : RegIdx} (h : k.toNat ≤ x.toNat) :
    (s.storeBlock (x.toNat + 1)).readByte (s.dataAddr k.toNat) = s.getV k := by
  have hx := RegIdx.lt16 x
  rw [storeBlock_readByte s (by omega) (by omega), BitVec.ofNat_toNat, BitVec.setWidth_eq]

/-! ### The statements -/

/-- Settles O43: the next fetch reads the addresses I + k and I + k + 1, where the dump has put Vk
and V(k+1). -/
theorem storeIsSeenByTheNextFetch : Obligations.StoreIsSeenByTheNextFetch := by
  intro x k l s t hi h hl hlx ha
  rw [step_of_about hi, execStoreRegs_eq] at h
  cases h
  have hpc : (s.storeBlock (x.toNat + 1)).advance.pc.toNat = (s.pc.toNat + 2) % 4096 :=
    (advance_moved _).of_pc_eq (storeBlock_pc s _)
  have hb : s.dataAddr l.toNat = s.dataAddr k.toNat + 1 := by
    rw [hl, dataAddr_eq, dataAddr_eq, Nat.add_assoc]
  rw [fetchWord_of_congr (a := s.dataAddr k.toNat) (b := s.dataAddr l.toNat) (by omega) (by omega),
    advance_readByte, advance_readByte, storeBlock_readByte_reg s (by omega),
    storeBlock_readByte_reg s hlx]

/-- Settles O55: the read rule of a written byte and the frame of the write. -/
theorem readAfterWrite : Obligations.ReadAfterWrite := by
  intro a a' b s
  exact ⟨fun h => by rw [writeByte_readByte, if_pos h], writeByte_keeps s a b⟩

/-- Settles O32: the fetched word is the two stored bytes, the one at PC first. -/
theorem fetchIsBigEndian : Obligations.FetchIsBigEndian := by
  intro hi lo s _
  rw [fetchWord_writeByte_writeByte, wordOfBytes_toNat]

/-- Settles O54: reads and writes see the address only through its remainder, and 4096 + a has
that of a. -/
theorem addressesWrapAt4096 : Obligations.AddressesWrapAt4096 := by
  intro a b s
  have h : (4096 + a) % 4096 = a % 4096 := Nat.add_mod_left 4096 a
  refine ⟨(readByte_mod s a).symm, (writeByte_mod s a b).symm, readByte_congr s h, ?_⟩
  rw [← writeByte_mod, h, writeByte_mod]

end Sys2Proof.Machine
end

section
/-! SUPPORT. The encoding (30_encoding.md): an instruction and its word have the same fields, and the
decoder reads exactly the rows of the table. -/

namespace Sys2Proof

/-! ### The fields that stand in a word (R11, R91) -/

/-- Each number stands in the word at the bit position of its format (R91). -/
def Fields.StandIn : Fields → Word → Prop
  | .fixed c, op => op.toNat = c
  | .addr major nnn, op => (fieldMajor op).toNat = major ∧ (fieldNNN op).toNat = nnn
  | .regByte major x kk, op | .reg major x kk, op =>
    (fieldMajor op).toNat = major ∧ (fieldX op).toNat = x ∧ (fieldKK op).toNat = kk
  | .regReg major x y n, op | .regRegNibble major x y n, op =>
    (fieldMajor op).toNat = major ∧ (fieldX op).toNat = x ∧ (fieldY op).toNat = y ∧
      (fieldN op).toNat = n

/-- The fields that stand in a word make its number. -/
theorem Fields.StandIn.toNat_eq {f : Fields} {op : Word} (h : f.StandIn op) :
    op.toNat = f.number := by
  cases f
  all_goals
    simp only [StandIn, number, fieldMajor_toNat, fieldNNN_toNat, fieldX_toNat, fieldY_toNat,
      fieldN_toNat, fieldKK_toNat] at h ⊢
    omega

/-! #### The check of each format (R91, R96) -/

namespace Fields
variable {major x y n kk nnn funct4 funct8 op : Nat}

@[simp] theorem wf_fixed : (fixed op).wf = true ↔ op = 0x00E0 ∨ op = 0x00EE := by simp [wf]

@[simp] theorem wf_addr : (addr major nnn).wf = true ↔
    (major = 0x1 ∨ major = 0x2 ∨ major = 0xA ∨ major = 0xB) ∧ nnn < 4096 := by simp [wf]

@[simp] theorem wf_regByte : (regByte major x kk).wf = true ↔
    (major = 0x3 ∨ major = 0x4 ∨ major = 0x6 ∨ major = 0x7 ∨ major = 0xC) ∧ x < 16 ∧ kk < 256 := by
  simp [wf, and_assoc]

@[simp] theorem wf_regReg : (regReg major x y funct4).wf = true ↔
    ((major = 0x5 ∨ major = 0x9) ∧ funct4 = 0 ∨
      major = 0x8 ∧ (funct4 = 0x0 ∨ funct4 = 0x1 ∨ funct4 = 0x2 ∨ funct4 = 0x3 ∨ funct4 = 0x4 ∨
        funct4 = 0x5 ∨ funct4 = 0x6 ∨ funct4 = 0x7 ∨ funct4 = 0xE)) ∧ x < 16 ∧ y < 16 := by
  simp [wf, and_assoc]

@[simp] theorem wf_regRegNibble : (regRegNibble major x y n).wf = true ↔
    major = 0xD ∧ x < 16 ∧ y < 16 ∧ n < 16 := by
  simp [wf, and_assoc]

@[simp] theorem wf_reg : (reg major x funct8).wf = true ↔
    (major = 0xE ∧ (funct8 = 0x9E ∨ funct8 = 0xA1) ∨
      major = 0xF ∧ (funct8 = 0x07 ∨ funct8 = 0x0A ∨ funct8 = 0x15 ∨ funct8 = 0x18 ∨
        funct8 = 0x1E ∨ funct8 = 0x29 ∨ funct8 = 0x33 ∨ funct8 = 0x55 ∨ funct8 = 0x65)) ∧
      x < 16 := by
  simp [wf]

end Fields

/-- Fields that pass the check stand in the word that they make. -/
theorem Fields.standIn_ofNat {f : Fields} (h : f.wf = true) :
    f.StandIn (BitVec.ofNat 16 f.number) := by
  cases f
  all_goals
    simp only [wf_fixed, wf_addr, wf_regByte, wf_regReg, wf_regRegNibble, wf_reg, StandIn, number,
      fieldMajor_toNat, fieldNNN_toNat, fieldX_toNat, fieldY_toNat, fieldN_toNat, fieldKK_toNat,
      BitVec.toNat_ofNat] at h ⊢
    omega

theorem Addr.lt4096 (n : Addr) : n.toNat < 4096 := n.isLt

theorem Byte.lt256 (b : Byte) : b.toNat < 256 := b.isLt

/-- Operands at their own widths are in the ranges of the format's check (R92). -/
theorem Instr.fields_wf (i : Instr) : i.fields.wf = true := by
  cases i <;> simp [Instr.fields, RegIdx.lt16, Addr.lt4096, Byte.lt256]

/-- The word of an instruction is the one in which its fields stand. -/
theorem encode_eq_iff_standIn {i : Instr} {op : Word} : encode i = op ↔ i.fields.StandIn op := by
  constructor
  · rintro rfl
    exact Fields.standIn_ofNat i.fields_wf
  · intro h
    rw [encode, ← h.toNat_eq, BitVec.ofNat_toNat, BitVec.setWidth_eq]

/-! ### The decoder reads the fields that stand in the word (R93, R94) -/

theorem decode_of_standIn {i : Instr} {op : Word} (h : i.fields.StandIn op) :
    decode op = .instr i := by
  cases i with
  | cls =>
    obtain rfl : op = 0x00E0#16 := BitVec.eq_of_toNat_eq h
    rfl
  | ret =>
    obtain rfl : op = 0x00EE#16 := BitVec.eq_of_toNat_eq h
    rfl
  | jp nnn | call nnn | ldI nnn | jpV0 nnn =>
    obtain ⟨hm, hn⟩ := h
    simp only [decode, hm, BitVec.eq_of_toNat_eq hn]
  | seImm x kk | sneImm x kk | ldImm x kk | addImm x kk | rnd x kk =>
    obtain ⟨hm, hx, hk⟩ := h
    simp only [decode, hm, BitVec.eq_of_toNat_eq hx, BitVec.eq_of_toNat_eq hk]
  | seReg x y | sneReg x y =>
    obtain ⟨hm, hx, hy, hn⟩ := h
    have hn : fieldN op = 0#4 := BitVec.eq_of_toNat_eq hn
    simp only [decode, hm, hn, if_true, BitVec.eq_of_toNat_eq hx, BitVec.eq_of_toNat_eq hy]
  | ldReg x y | orReg x y | andReg x y | xorReg x y | addReg x y | subReg x y | shrReg x y
  | subnReg x y | shlReg x y =>
    obtain ⟨hm, hx, hy, hn⟩ := h
    simp only [decode, decodeMajor8, hm, hn, BitVec.eq_of_toNat_eq hx, BitVec.eq_of_toNat_eq hy]
  | drw x y n =>
    obtain ⟨hm, hx, hy, hn⟩ := h
    simp only [decode, hm, BitVec.eq_of_toNat_eq hx, BitVec.eq_of_toNat_eq hy,
      BitVec.eq_of_toNat_eq hn]
  | _ =>
    obtain ⟨hm, hx, hk⟩ := h
    simp only [decode, decodeMajorE, decodeMajorF, hm, hk, BitVec.eq_of_toNat_eq hx]

section
variable {op : Word} {i : Instr}

theorem standIn_of_decodeMajor0 (h : decodeMajor0 op = .instr i) : i.fields.StandIn op := by
  unfold decodeMajor0 at h
  split at h
  next hop => cases h; exact congrArg BitVec.toNat hop
  next =>
    split at h
    next hop => cases h; exact congrArg BitVec.toNat hop
    next => cases h

theorem standIn_of_decodeMajor8 (hm : (fieldMajor op).toNat = 0x8)
    (h : decodeMajor8 op = .instr i) : i.fields.StandIn op := by
  unfold decodeMajor8 at h
  split at h <;> cases h
  all_goals exact ⟨hm, rfl, rfl, ‹_›⟩

theorem standIn_of_decodeMajorE (hm : (fieldMajor op).toNat = 0xE)
    (h : decodeMajorE op = .instr i) : i.fields.StandIn op := by
  unfold decodeMajorE at h
  split at h <;> cases h
  all_goals exact ⟨hm, rfl, ‹_›⟩

theorem standIn_of_decodeMajorF (hm : (fieldMajor op).toNat = 0xF)
    (h : decodeMajorF op = .instr i) : i.fields.StandIn op := by
  unfold decodeMajorF at h
  split at h <;> cases h
  all_goals exact ⟨hm, rfl, ‹_›⟩

theorem standIn_of_decode (h : decode op = .instr i) : i.fields.StandIn op := by
  unfold decode at h
  -- the split numbers the arms from 1: `h_k` is the major opcode k - 1, and `h_17` no major opcode
  split at h
  case h_1 => exact standIn_of_decodeMajor0 h
  case h_9 hm => exact standIn_of_decodeMajor8 hm h
  case h_15 hm => exact standIn_of_decodeMajorE hm h
  case h_16 hm => exact standIn_of_decodeMajorF hm h
  case h_17 => cases h
  case h_6 hm | h_10 hm =>
    split at h
    next hn => cases h; exact ⟨hm, rfl, rfl, congrArg BitVec.toNat hn⟩
    next => cases h
  case h_2 hm | h_3 hm | h_11 hm | h_12 hm => cases h; exact ⟨hm, rfl⟩
  case h_4 hm | h_5 hm | h_7 hm | h_8 hm | h_13 hm => cases h; exact ⟨hm, rfl, rfl⟩
  case h_14 hm => cases h; exact ⟨hm, rfl, rfl, rfl⟩

end

/-- The decoder answers an instruction exactly when its fields stand in the word. -/
theorem decode_eq_instr_iff {op : Word} {i : Instr} :
    decode op = .instr i ↔ i.fields.StandIn op :=
  ⟨standIn_of_decode, decode_of_standIn⟩

/-- An unknown opcode is reported with its own word (R97). -/
theorem decode_unknownOpcode {op op' : Word} (h : decode op = .unknownOpcode op') : op' = op := by
  unfold decode decodeMajor0 decodeMajor8 decodeMajorE decodeMajorF at h
  repeat' split at h
  all_goals cases h <;> rfl

theorem exists_toNat_eq {w n : Nat} (h : n < 2 ^ w) : ∃ b : BitVec w, b.toNat = n :=
  ⟨.ofNatLT n h, rfl⟩

/-- Fields that pass their format's check are those of an instruction (R91, R96). -/
theorem Fields.exists_instr {f : Fields} (h : f.wf = true) : ∃ i : Instr, i.fields = f := by
  cases f with
  | fixed op =>
    obtain rfl | rfl := wf_fixed.mp h
    exacts [⟨.cls, rfl⟩, ⟨.ret, rfl⟩]
  | addr major nnn =>
    obtain ⟨hm, hn⟩ := wf_addr.mp h
    obtain ⟨n, rfl⟩ := exists_toNat_eq (w := 12) hn
    obtain rfl | rfl | rfl | rfl := hm
    exacts [⟨.jp n, rfl⟩, ⟨.call n, rfl⟩, ⟨.ldI n, rfl⟩, ⟨.jpV0 n, rfl⟩]
  | regByte major x kk =>
    obtain ⟨hm, hx, hk⟩ := wf_regByte.mp h
    obtain ⟨x, rfl⟩ := exists_toNat_eq (w := 4) hx
    obtain ⟨k, rfl⟩ := exists_toNat_eq (w := 8) hk
    obtain rfl | rfl | rfl | rfl | rfl := hm
    exacts [⟨.seImm x k, rfl⟩, ⟨.sneImm x k, rfl⟩, ⟨.ldImm x k, rfl⟩, ⟨.addImm x k, rfl⟩,
      ⟨.rnd x k, rfl⟩]
  | regReg major x y funct4 =>
    obtain ⟨hm, hx, hy⟩ := wf_regReg.mp h
    obtain ⟨x, rfl⟩ := exists_toNat_eq (w := 4) hx
    obtain ⟨y, rfl⟩ := exists_toNat_eq (w := 4) hy
    obtain ⟨rfl | rfl, rfl⟩ | ⟨rfl, hn⟩ := hm
    · exact ⟨.seReg x y, rfl⟩
    · exact ⟨.sneReg x y, rfl⟩
    · obtain rfl | rfl | rfl | rfl | rfl | rfl | rfl | rfl | rfl := hn
      exacts [⟨.ldReg x y, rfl⟩, ⟨.orReg x y, rfl⟩, ⟨.andReg x y, rfl⟩, ⟨.xorReg x y, rfl⟩,
        ⟨.addReg x y, rfl⟩, ⟨.subReg x y, rfl⟩, ⟨.shrReg x y, rfl⟩, ⟨.subnReg x y, rfl⟩,
        ⟨.shlReg x y, rfl⟩]
  | regRegNibble major x y n =>
    obtain ⟨rfl, hx, hy, hn⟩ := wf_regRegNibble.mp h
    obtain ⟨x, rfl⟩ := exists_toNat_eq (w := 4) hx
    obtain ⟨y, rfl⟩ := exists_toNat_eq (w := 4) hy
    obtain ⟨n, rfl⟩ := exists_toNat_eq (w := 4) hn
    exact ⟨.drw x y n, rfl⟩
  | reg major x funct8 =>
    obtain ⟨hm, hx⟩ := wf_reg.mp h
    obtain ⟨x, rfl⟩ := exists_toNat_eq (w := 4) hx
    obtain ⟨rfl, hk⟩ | ⟨rfl, hk⟩ := hm
    · obtain rfl | rfl := hk
      exacts [⟨.skp x, rfl⟩, ⟨.sknp x, rfl⟩]
    · obtain rfl | rfl | rfl | rfl | rfl | rfl | rfl | rfl | rfl := hk
      exacts [⟨.ldVxDt x, rfl⟩, ⟨.ldVxK x, rfl⟩, ⟨.ldDtVx x, rfl⟩, ⟨.ldStVx x, rfl⟩,
        ⟨.addI x, rfl⟩, ⟨.ldF x, rfl⟩, ⟨.ldB x, rfl⟩, ⟨.storeRegs x, rfl⟩, ⟨.loadRegs x, rfl⟩]

/-! ### The table (R94, R95) -/

/-- The row of a decoded word; none for an unknown opcode. -/
def Decoded.row? : Decoded → Option OpcodeRow
  | .instr i => some i.row
  | .unknownOpcode _ => none

theorem Decoded.row?_eq_some_iff {d : Decoded} {r : OpcodeRow} :
    d.row? = some r ↔ ∃ i, d = .instr i ∧ i.row = r := by
  cases d <;> simp [Decoded.row?]

/-- Each row's own value decodes to an instruction of that row. -/
theorem decode_value_row? : ∀ r ∈ opcodeTable, (decode r.value).row? = some r := by decide

theorem opcodeTable_value_masked : ∀ r ∈ opcodeTable, r.value &&& r.mask = r.value := by decide

/-- The four kinds of row by the bits they fix, and the major opcodes of each (R94). -/
theorem opcodeTable_kinds : ∀ r ∈ opcodeTable,
    r.mask = 0xFFFF#16 ∨
    (r.mask = 0xF000#16 ∧
      (fieldMajor r.value).toNat ∈ [0x1, 0x2, 0x3, 0x4, 0x6, 0x7, 0xA, 0xB, 0xC, 0xD]) ∨
    (r.mask = 0xF00F#16 ∧ (fieldMajor r.value).toNat ∈ [0x5, 0x8, 0x9]) ∨
    (r.mask = 0xF0FF#16 ∧ (fieldMajor r.value).toNat ∈ [0xE, 0xF]) := by decide

/-- Two rows differ on a bit that both fix. -/
theorem opcodeTable_disjoint :
    opcodeTable.Pairwise fun r q => r.value &&& q.mask ≠ q.value &&& r.mask := by decide

theorem Instr.row_mem (i : Instr) : i.row ∈ opcodeTable := by
  cases i <;> simp [Instr.row, opcodeTable, opcodeRowsA, opcodeRowsB]

section
variable {op v : Word}

/-- The major opcode alone selects the row. -/
theorem row?_congr_major (h : fieldMajor op = fieldMajor v)
    (hv : (fieldMajor v).toNat ∈ [0x1, 0x2, 0x3, 0x4, 0x6, 0x7, 0xA, 0xB, 0xC, 0xD]) :
    (decode op).row? = (decode v).row? := by
  simp only [List.mem_cons, List.not_mem_nil, or_false] at hv
  rcases hv with hm | hm | hm | hm | hm | hm | hm | hm | hm | hm
  all_goals simp only [decode, h, hm]; rfl

/-- The major opcode and funct4 select the row. -/
theorem row?_congr_funct4 (h : fieldMajor op = fieldMajor v) (hn : fieldN op = fieldN v)
    (hv : (fieldMajor v).toNat ∈ [0x5, 0x8, 0x9]) : (decode op).row? = (decode v).row? := by
  simp only [List.mem_cons, List.not_mem_nil, or_false] at hv
  rcases hv with hm | hm | hm
  all_goals simp only [decode, decodeMajor8, h, hm, hn]; split <;> rfl

/-- The major opcode and funct8 select the row. -/
theorem row?_congr_funct8 (h : fieldMajor op = fieldMajor v) (hk : fieldKK op = fieldKK v)
    (hv : (fieldMajor v).toNat ∈ [0xE, 0xF]) : (decode op).row? = (decode v).row? := by
  simp only [List.mem_cons, List.not_mem_nil, or_false] at hv
  rcases hv with hm | hm
  all_goals simp only [decode, decodeMajorE, decodeMajorF, h, hm, hk]; split <;> rfl

/-- A row selects the words that agree with its value on the bits it fixes. -/
theorem selects_iff {r : OpcodeRow} (hr : r ∈ opcodeTable) :
    r.selects op = true ↔ op &&& r.mask = r.value &&& r.mask := by
  rw [opcodeTable_value_masked r hr, OpcodeRow.selects, beq_iff_eq]

/-- A word that a row selects decodes to an instruction of that row. -/
theorem row?_of_selects {r : OpcodeRow} (hr : r ∈ opcodeTable) (h : r.selects op = true) :
    (decode op).row? = some r := by
  rw [selects_iff hr] at h
  rw [← decode_value_row? r hr]
  obtain hm | ⟨hm, hv⟩ | ⟨hm, hv⟩ | ⟨hm, hv⟩ := opcodeTable_kinds r hr <;> rw [hm] at h
  · rw [mask_FFFF, mask_FFFF] at h
    rw [h]
  · exact row?_congr_major ((mask_F000 _ _).mp h) hv
  · obtain ⟨hM, hN⟩ := (mask_F00F _ _).mp h
    exact row?_congr_funct4 hM hN hv
  · obtain ⟨hM, hK⟩ := (mask_F0FF _ _).mp h
    exact row?_congr_funct8 hM hK hv

/-- The row of an instruction selects the word in which its fields stand. -/
theorem selects_of_standIn {i : Instr} (h : i.fields.StandIn op) : i.row.selects op = true := by
  rw [selects_iff i.row_mem]
  cases i with
  | cls | ret => exact congrArg (· &&& 0xFFFF#16) (BitVec.eq_of_toNat_eq h)
  | seReg | ldReg | orReg | andReg | xorReg | addReg | subReg | shrReg | subnReg | shlReg
  | sneReg =>
    obtain ⟨hm, -, -, hn⟩ := h
    dsimp only [Instr.row]
    exact (mask_F00F _ _).mpr ⟨BitVec.eq_of_toNat_eq hm, BitVec.eq_of_toNat_eq hn⟩
  | skp | sknp | ldVxDt | ldVxK | ldDtVx | ldStVx | addI | ldF | ldB | storeRegs | loadRegs =>
    obtain ⟨hm, -, hk⟩ := h
    dsimp only [Instr.row]
    exact (mask_F0FF _ _).mpr ⟨BitVec.eq_of_toNat_eq hm, BitVec.eq_of_toNat_eq hk⟩
  | _ =>
    dsimp only [Instr.row]
    exact (mask_F000 _ _).mpr (BitVec.eq_of_toNat_eq h.1)

end

/-! ### The statements -/

/-- Settles O49: an instruction's fields stand in its word, and the decoder reads them there. -/
theorem decodeOfEncode : Obligations.DecodeOfEncode := fun i =>
  ⟨i.fields_wf, decode_eq_instr_iff.mpr (encode_eq_iff_standIn.mp rfl)⟩

/-- Settles O50: the fields that the decoder reads stand in the word, and make it. -/
theorem encodeOfDecode : Obligations.EncodeOfDecode := fun _ =>
  ⟨fun _ h => encode_eq_iff_standIn.mpr (decode_eq_instr_iff.mp h), fun _ h =>
    decode_unknownOpcode h⟩

/-- Settles O52: the fields are those of an instruction, and stand in the word they make. -/
theorem wellFormedFieldsDecode : Obligations.WellFormedFieldsDecode := by
  intro f h
  obtain ⟨i, rfl⟩ := Fields.exists_instr h
  exact ⟨i, decode_eq_instr_iff.mpr (Fields.standIn_ofNat h), rfl⟩

/-- Settles O51: a selected word has the row of the row's own value; a decoded word is selected by
its instruction's row. -/
theorem decoderFollowsTheOpcodeTable : Obligations.DecoderFollowsTheOpcodeTable := by
  refine ⟨fun op => ?disjoint, fun op => ⟨fun r hr h => ?selected, fun h => ?unselected⟩⟩
  case disjoint =>
    refine opcodeTable_disjoint.imp fun {r q} hne ⟨hr, hq⟩ => hne ?_
    rw [← beq_iff_eq.mp hr, ← beq_iff_eq.mp hq, BitVec.and_assoc, BitVec.and_assoc,
      BitVec.and_comm r.mask]
  case selected => exact Decoded.row?_eq_some_iff.mp (row?_of_selects hr h)
  case unselected =>
    cases hd : decode op with
    | instr i =>
      have hs : i.row.selects op = true := selects_of_standIn (decode_eq_instr_iff.mp hd)
      exact absurd (hs.symm.trans (h i.row i.row_mem)) nofun
    | unknownOpcode op' => rw [decode_unknownOpcode hd]

/-- Settles O53: the decoder evaluated at each word. -/
theorem wordsDecodeAsTheTableSays : Obligations.WordsDecodeAsTheTableSays := by
  unfold Obligations.WordsDecodeAsTheTableSays
  decide

end Sys2Proof
end

section
/-! SUPPORT. The control transfers (40_control_flow.md): where each leaves PC and the stack, the two
stack faults, and the round trip of a call and its return. -/

namespace Sys2Proof.Machine

/-! ### Jump targets, faults and skips (R121 to R128, R232) -/

/-- An address operand is below 4096, so a jump stores it whole (R121). -/
theorem setPC_addr (s : State) (nnn : Addr) : (s.setPC nnn.toNat).pc.toNat = nnn.toNat := by
  rw [setPC_toNat, Nat.mod_eq_of_lt nnn.lt4096]

theorem takesFault_of_raiseFatal {i : Instr} {c : FaultCause} {s : State}
    (h : exec i s = .next (s.raiseFatal c)) : TakesFault i c s :=
  ⟨_, h, rfl, raiseFatal_keeps s c⟩

/-- An instruction that is a `skipIf` skips when the proposition that its test decides holds. -/
theorem skipsWhen_of_skipIf {i : Instr} {c : Bool} {cond : Prop} {s : State}
    (h : exec i s = .next (s.skipIf c)) (hc : c = true ↔ cond) : SkipsWhen i cond s := by
  refine ⟨s.skipIf c, h, fun hp => ?_, fun hp => ?_, skipIf_keeps s c⟩ <;> rw [← hc] at hp
  · rw [State.skipIf, if_pos hp]
    exact skipNext_moved s
  · rw [State.skipIf, if_neg hp]
    exact advance_moved s

/-! ### The word of `RET` at PC (R120, R129) -/

/-- A running state whose PC is an even address with the bytes 00 EE is about to return. -/
theorem about_ret_of_bytes {s : State} {a : Nat} (hf : s.fault = .none) (hpc : s.pc.toNat = a)
    (ha : a % 2 = 0) (hi : s.readByte a = 0x00) (hlo : s.readByte (a + 1) = 0xEE) :
    s.About .ret := by
  subst hpc
  refine ⟨⟨hf, ha⟩, ?_⟩
  rw [State.fetchWord, hi, hlo]
  decide

/-! ### The statements -/

/-- Settles O1: the jump is a write to PC, and a step at an odd PC latches MisalignedPC. -/
theorem jumpStoresTheTarget : Obligations.JumpStoresTheTarget := by
  intro nnn s
  refine ⟨s.setPC nnn.toNat, rfl, setPC_addr s nnn, setPC_keeps s _, fun hf hodd => ?_⟩
  exact ⟨_, step_of_odd hf (by rw [setPC_addr, hodd]), rfl, rfl⟩

/-- Settles O7: the jump is a write to PC, which reduces the sum. -/
theorem jumpWithOffsetAddsV0 : Obligations.JumpWithOffsetAddsV0 := fun nnn s =>
  ⟨s.setPC (s.offsetTarget nnn), rfl, setPC_toNat s _, setPC_keeps s _⟩

/-- Settles O8: each skip is a `skipIf` on an equality of bytes or on its negation. -/
theorem registerSkips : Obligations.RegisterSkips := by
  intro x y kk s
  refine ⟨skipsWhen_of_skipIf rfl ?_, skipsWhen_of_skipIf rfl ?_, skipsWhen_of_skipIf rfl ?_,
    skipsWhen_of_skipIf rfl ?_⟩
  · rw [beq_iff_eq, BitVec.toNat_inj]
  · rw [bne_iff_ne, ← BitVec.toNat_ne_iff_ne]
  · rw [beq_iff_eq, BitVec.toNat_inj]
  · rw [bne_iff_ne, ← BitVec.toNat_ne_iff_ne]

/-- Settles O2: the push stores the return address in slot j, and the jump writes PC only. -/
theorem callPushesReturnAddress : Obligations.CallPushesReturnAddress := by
  intro nnn s j hj
  obtain ⟨u, hu, hslot, hsp, -, hk⟩ := push_spec s s.returnAddress j hj
  refine ⟨u.setPC nnn.toNat, by simp only [exec, execCall, hu], ?_, hsp, setPC_addr u nnn,
    (hk.trans (setPC_keeps u _)).mono fun p hp => ?_⟩
  · rw [setPC_stack, hslot, returnAddress_toNat]
  · exact List.mem_cons.mpr hp.symm

/-- Settles O3: the push fails, and what is left is the latch. -/
theorem callOnFullStackFaults : Obligations.CallOnFullStackFaults := fun nnn _ h =>
  takesFault_of_raiseFatal (execCall_full nnn h)

/-- Settles O4: the pop gives slot j and writes SP only, and the jump writes PC only. -/
theorem retPopsReturnAddress : Obligations.RetPopsReturnAddress := by
  intro s j hj
  obtain ⟨u, hu, hsp, -, hk⟩ := pop_spec s j hj
  refine ⟨u.setPC s.stack[j].toNat, by simp only [exec, execRet, hu], setPC_toNat u _, hsp,
    (hk.trans (setPC_keeps u _)).mono fun p hp => ?_⟩
  exact List.mem_pair.mpr hp.symm

/-- Settles O5: the pop fails, and what is left is the latch. -/
theorem retOnEmptyStackFaults : Obligations.RetOnEmptyStackFaults := fun _ h =>
  takesFault_of_raiseFatal (execRet_empty h)

/-- Settles O6: the call (O2) keeps FAULT and memory, so the next step is the `RET`, which pops
(O4) the slot that the call wrote. -/
theorem callThenRetRoundTrip : Obligations.CallThenRetRoundTrip := by
  intro nnn s hs hlt heven hhi hlo
  obtain ⟨t, ht, hslot, htsp, htpc, htk⟩ := callPushesReturnAddress nnn s ⟨s.sp.val, hlt⟩ rfl
  obtain ⟨u, hu, hupc, husp, -⟩ := retPopsReturnAddress t _ htsp
  have hfault : t.fault = s.fault := htk .faultLatch (by simp)
  have hmem (a : Nat) : t.readByte a = s.readByte a := htk (.memByte a) (by simp)
  have hret : t.About .ret := about_ret_of_bytes (hfault.trans hs.1.1) htpc heven
    ((hmem _).trans hhi) ((hmem _).trans hlo)
  refine ⟨t, u, (step_of_about hs).trans ht, htpc, (step_of_about hret).trans hu, ?_, Fin.ext husp⟩
  rw [PcMoved, hupc, hslot, Nat.mod_mod]

end Sys2Proof.Machine
end

section
/-! SUPPORT. The load, arithmetic, logic, shift and random instructions (41_alu.md): the two shapes
of effect they share, and the value and the flag that each writes. -/

namespace Sys2Proof.Machine

/-! ### The two shapes of effect (R140 to R153) -/

/-- An instruction that is one register write and `next()` writes that register. -/
theorem writesReg_of_setV {i : Instr} {x : RegIdx} {b : Byte} {s : State}
    (h : exec i s = .next (s.setV x b).advance) : WritesReg i x b s :=
  ⟨_, h, setV_getV_same s x b, (advance_moved _).of_pc_eq (setV_pc s x b),
    ((setV_keeps s x b).trans (advance_keeps _)).mono fun _ hp => List.mem_pair.mpr hp⟩

/-- Writing a byte is writing its bits. -/
theorem WritesReg.writesBits {i : Instr} {x : RegIdx} {b : Byte} {f : Nat → Bool} {s : State}
    (h : WritesReg i x b s) (hb : ∀ j, b.getLsbD j = f j) : WritesBits i x f s := by
  obtain ⟨t, ht, rfl, hpc, hk⟩ := h
  exact ⟨t, ht, fun j _ => hb j, hpc, hk⟩

/-- An instruction that is a `resultThenFlag` writes the number of its result and the proposition
that its flag decides. -/
theorem writesResultAndFlag_of_resultThenFlag {i : Instr} {x : RegIdx} {b : Byte} {f : Bool}
    {result : Nat} {flag : Prop} {s : State} (h : exec i s = .next (s.resultThenFlag x b f))
    (hb : b.toNat = result) (hf : f = true ↔ flag) : WritesResultAndFlag i x result flag s := by
  refine ⟨_, h, fun hx => ?_, fun hp => ?_, fun hp => ?_, resultThenFlag_moved s x b f,
    resultThenFlag_keeps s x b f⟩
  · rw [resultThenFlag_result s b f hx, hb]
  · rw [resultThenFlag_vf, hf.mpr hp, flagByte_true]
  · rw [resultThenFlag_vf, Bool.eq_false_iff.mpr (hp ∘ hf.mp), flagByte_false]

/-! ### Results and flags as numbers (R146 to R150) -/

theorem carry_iff (a b : Byte) : carry a b = true ↔ 256 ≤ a.toNat + b.toNat := decide_eq_true_iff

theorem noBorrow_iff (a b : Byte) : noBorrow a b = true ↔ b.toNat ≤ a.toNat := decide_eq_true_iff

theorem bitOutRight_iff (a : Byte) : bitOutRight a = true ↔ a.toNat % 2 = 1 := by
  rw [bitOutRight, BitVec.getLsbD, Nat.testBit_zero, decide_eq_true_iff]

theorem bitOutLeft_iff (a : Byte) : bitOutLeft a = true ↔ 128 ≤ a.toNat := by
  have hmsb : bitOutLeft a = a.msb := (BitVec.msb_eq_getLsbD_last a).symm
  rw [hmsb, BitVec.msb_eq_decide, decide_eq_true_iff]

/-- Adding 256 first keeps the natural difference from stopping at 0. -/
theorem toNat_sub_byte (a b : Byte) : (a - b).toNat = (a.toNat + 256 - b.toNat) % 256 := by
  have hb := b.isLt
  rw [BitVec.toNat_sub]
  congr 1
  omega

theorem toNat_shiftRight_one (a : Byte) : (a >>> 1).toNat = a.toNat / 2 := by
  rw [BitVec.toNat_ushiftRight, Nat.shiftRight_one]

theorem toNat_shiftLeft_one (a : Byte) : (a <<< 1).toNat = a.toNat * 2 % 256 := by
  rw [BitVec.toNat_shiftLeft, Nat.shiftLeft_eq]

/-! ### The statements -/

/-- Settles O12: each operation is one register write, of a byte whose bits the library gives. -/
theorem logicIsBitwise : Obligations.LogicIsBitwise := fun _ _ _ =>
  ⟨(writesReg_of_setV rfl).writesBits fun _ => BitVec.getLsbD_or,
    (writesReg_of_setV rfl).writesBits fun _ => BitVec.getLsbD_and,
    (writesReg_of_setV rfl).writesBits fun _ => BitVec.getLsbD_xor⟩

/-- Settles O13: the sum is the result, the carry the flag. -/
theorem addSetsCarry : Obligations.AddSetsCarry := fun _ _ _ =>
  writesResultAndFlag_of_resultThenFlag rfl (BitVec.toNat_add _ _) (carry_iff _ _)

/-- Settles O14: the same difference and the same flag, with the operands in the two orders. -/
theorem subtractSetsNoBorrow : Obligations.SubtractSetsNoBorrow := fun _ _ _ =>
  ⟨writesResultAndFlag_of_resultThenFlag rfl (toNat_sub_byte _ _) (noBorrow_iff _ _),
    writesResultAndFlag_of_resultThenFlag rfl (toNat_sub_byte _ _) (noBorrow_iff _ _)⟩

/-- Settles O15: each shift is the result, the bit moved out the flag. -/
theorem shiftsSetTheBitMovedOut : Obligations.ShiftsSetTheBitMovedOut := fun _ _ _ =>
  ⟨writesResultAndFlag_of_resultThenFlag rfl (toNat_shiftRight_one _) (bitOutRight_iff _),
    writesResultAndFlag_of_resultThenFlag rfl (toNat_shiftLeft_one _) (bitOutLeft_iff _)⟩

/-- Settles O16: Vx holds the masked byte, whatever the free byte is. -/
theorem randomIsMasked : Obligations.RandomIsMasked := by
  intro x kk s
  have hx : (s.randomMasked x kk (Config.freeRnd s.draws)).getV x = Config.freeRnd s.draws &&& kk :=
    setV_getV_same s x _
  refine ⟨_, rfl, fun j _ => ?_, ?_, rfl, (advance_moved _).of_pc_eq rfl,
    exec_keeps (i := .rnd x kk) rfl⟩
  · rw [hx, BitVec.getLsbD_and]
  · rw [hx, BitVec.toNat_and]
    exact Nat.and_le_right

/-- Settles O10: each load is one register write. -/
theorem registerLoads : Obligations.RegisterLoads := fun _ _ _ _ =>
  ⟨writesReg_of_setV rfl, writesReg_of_setV rfl⟩

/-- Settles O11: one register write, of the sum of two bytes. -/
theorem addImmediateWrapsWithoutFlag : Obligations.AddImmediateWrapsWithoutFlag := by
  intro x kk s
  obtain ⟨t, ht, hx, hpc, hk⟩ : WritesReg (.addImm x kk) x (s.getV x + kk) s :=
    writesReg_of_setV rfl
  exact ⟨t, ht, by rw [hx, BitVec.toNat_add], hpc, hk⟩

end Sys2Proof.Machine
end

section
/-! SUPPORT. The index register and memory instructions (42_index_memory.md): the numbers written to
I, the block of bytes each store leaves, and the load that gives a dump back. -/

namespace Sys2Proof.Machine

/-! ### The numbers written to I (R170 to R172) -/

/-- An instruction that is one write to I and `next()` writes the number of that word. -/
theorem writesIndex_of_setI {i : Instr} {w : Word} {n : Nat} {s : State}
    (h : exec i s = .next (s.setI w).advance) (hw : w.toNat = n) : WritesIndex i n s :=
  ⟨_, h, hw, (advance_moved _).of_pc_eq (setI_pc s w),
    ((setI_keeps s w).trans (advance_keeps _)).mono fun _ hp => List.mem_pair.mpr hp⟩

theorem addrWord_toNat (nnn : Addr) : (addrWord nnn).toNat = nnn.toNat :=
  BitVec.toNat_setWidth_of_le (by decide)

theorem indexSum_toNat (s : State) (x : RegIdx) :
    (s.indexSum x).toNat = (s.i.toNat + (s.getV x).toNat) % 65536 := by
  rw [State.indexSum, BitVec.toNat_add, BitVec.toNat_setWidth_of_le (by decide)]

/-- A glyph address is at most 0x050 + 75, so the word holds it whole (R172). -/
theorem glyphAddr_toNat (s : State) (x : RegIdx) :
    (s.glyphAddr x).toNat = 0x050 + 5 * ((s.getV x).toNat % 16) := by
  rw [State.glyphAddr, BitVec.toNat_ofNat]
  omega

/-! ### The registers after a load (R175) -/

/-- After a load of V0 to Vx, register k up to x is the byte at I + k. -/
theorem loadBlock_getV_reg (s : State) {k x : RegIdx} (h : k.toNat ≤ x.toNat) :
    (s.loadBlock (x.toNat + 1)).getV k = s.readByte (s.dataAddr k.toNat) :=
  loadBlock_getV s x.lt16 k (Nat.lt_succ_of_le h)

/-! ### The statements -/

/-- Settles O17: each instruction is one write to I. -/
theorem indexRegisterWrites : Obligations.IndexRegisterWrites := fun nnn x s =>
  ⟨writesIndex_of_setI rfl (addrWord_toNat nnn), writesIndex_of_setI rfl (indexSum_toNat s x),
    writesIndex_of_setI rfl (glyphAddr_toNat s x)⟩

/-- Settles O18: the three stored bytes are the digits of Vx, which sum to it. -/
theorem bcdStoresThreeDigits : Obligations.BcdStoresThreeDigits := by
  intro x s
  obtain ⟨hh, ht, ho⟩ := storeDigits_readByte s (s.getV x)
  refine ⟨(s.storeDigits (s.getV x)).advance, rfl, ?_,
    (advance_moved _).of_pc_eq (storeDigits_pc s _), exec_keeps (i := .ldB x) rfl⟩
  exact ⟨_, _, _, tens_le _, ones_le _, digits_sum (s.getV x), congrArg BitVec.toNat hh,
    congrArg BitVec.toNat ht, congrArg BitVec.toNat ho⟩

/-- Settles O19: the dump stores the registers, and `next()` leaves memory alone. -/
theorem registerDumpStoresBlock : Obligations.RegisterDumpStoresBlock := fun x s =>
  ⟨_, execStoreRegs_eq x s, fun _ hk => storeBlock_readByte_reg s hk,
    (advance_moved _).of_pc_eq (storeBlock_pc s _), exec_keeps (execStoreRegs_eq x s)⟩

/-- Settles O20: the load reads the bytes, and `next()` leaves the registers alone. -/
theorem registerLoadReadsBlock : Obligations.RegisterLoadReadsBlock := fun x s =>
  ⟨(s.loadBlock (x.toNat + 1)).advance, rfl, fun _ hk => loadBlock_getV_reg s hk,
    (advance_moved _).of_pc_eq (loadBlock_pc s _ x.lt16), exec_keeps (i := .loadRegs x) rfl⟩

/-- Settles O21: the dump (O19) keeps I, so the load (O20) reads the addresses the dump has
written. -/
theorem dumpThenLoadRestoresRegisters : Obligations.DumpThenLoadRestoresRegisters := by
  intro x s
  obtain ⟨t, ht, hstored, -, htk⟩ := registerDumpStoresBlock x s
  refine ⟨t, ht, fun t' hi hmem => ?_⟩
  obtain ⟨u, hu, hloaded, -, -⟩ := registerLoadReadsBlock x t'
  refine ⟨u, hu, fun k hk => ?_⟩
  have hindex : t.i = s.i := htk .index (by simp [IndexedByte])
  have haddr : t'.dataAddr k.toNat = s.dataAddr k.toNat := by
    rw [dataAddr_eq, dataAddr_eq, hi, hindex]
  calc u.getV k = t'.readByte (t'.dataAddr k.toNat) := hloaded k hk
    _ = t.readByte (s.dataAddr k.toNat) := by rw [haddr, hmem]
    _ = s.getV k := hstored k hk

end Sys2Proof.Machine
end

section
/-! SUPPORT. The display instructions (43_display.md): the state after a draw, pixel by pixel, and
the collision in VF. -/

namespace Sys2Proof.Machine

/-! ### The state after a draw (R191 to R193) -/

/-- The sprite bit that `DRW` lays on the pixel (px, py): the sprite starts at the coordinates that
Vx and Vy hold before the instruction (R191). -/
def State.drwBit (s : State) (x y : RegIdx) (n : Nibble) (px py : Nat) : Bool :=
  s.spriteBit (s.getV x).toNat (s.getV y).toNat n.toNat px py

/-- The state after a `DRW` (R191). -/
def State.drawn (s : State) (x y : RegIdx) (n : Nibble) : State :=
  ((s.setFB (s.blit (s.getV x) (s.getV y) n).fb).setFlag
    (s.blit (s.getV x) (s.getV y) n).hit).advance

theorem flagByte_toNat (f : Bool) : (flagByte f).toNat = f.toNat := by
  cases f <;> rfl

section
variable (s : State) (x y : RegIdx) (n : Nibble)

theorem execDrw_eq : exec (.drw x y n) s = .next (s.drawn x y n) := rfl

/-- A draw is one blit of the sprite, from no collision. -/
theorem blit_drwBit :
    Blitted ⟨s.fb, false⟩ (s.blit (s.getV x) (s.getV y) n) (s.drwBit x y n) :=
  blit_blitted s _ _ n

theorem drawn_pixel {px py : Nat} (hx : px < 64) (hy : py < 32) :
    (s.drawn x y n).pixel px py = (s.pixel px py ^^ s.drwBit x y n px py) :=
  (blit_drwBit s x y n).1 px py hx hy

/-- The blit notes a collision when a set sprite bit meets a set pixel (R193). -/
theorem blit_hit_iff : (s.blit (s.getV x) (s.getV y) n).hit = true ↔
    ∃ px py, px < 64 ∧ py < 32 ∧ s.pixel px py = true ∧ s.drwBit x y n px py = true :=
  (blit_drwBit s x y n).2.trans (or_iff_right Bool.false_ne_true)

theorem drawn_vf :
    ((s.drawn x y n).getV vf).toNat = (s.blit (s.getV x) (s.getV y) n).hit.toNat := by
  rw [State.drawn, advance_getV, setFlag_eq, setV_getV_same, flagByte_toNat]

theorem drawn_vf_eq_one_iff : ((s.drawn x y n).getV vf).toNat = 1 ↔
    ∃ px py, px < 64 ∧ py < 32 ∧ s.pixel px py = true ∧ s.drwBit x y n px py = true := by
  rw [drawn_vf, Bool.toNat_eq_one, blit_hit_iff]

theorem drawn_vf_eq_zero_of_no_hit (h : ∀ px py, px < 64 → py < 32 → s.pixel px py = true →
    s.drwBit x y n px py = false) : ((s.drawn x y n).getV vf).toNat = 0 := by
  rw [drawn_vf, Bool.toNat_eq_zero, Bool.eq_false_iff, Ne, blit_hit_iff]
  rintro ⟨px, py, hx, hy, hp, hb⟩
  exact Bool.false_ne_true ((h px py hx hy hp).symm.trans hb)

end

/-- The sprite bits depend on I, the bytes of memory and the two coordinate registers only. -/
theorem drwBit_congr {s t : State} {x y : RegIdx} (n : Nibble) (hi : t.i = s.i)
    (hmem : ∀ a, t.readByte a = s.readByte a) (hx : t.getV x = s.getV x)
    (hy : t.getV y = s.getV y) : t.drwBit x y n = s.drwBit x y n := by
  funext px py
  simp only [State.drwBit, State.spriteBit, dataAddr_eq, hi, hmem, hx, hy]

/-! ### The statements -/

/-- Settles O23: the draw is one blit, whose collision is the flag. -/
theorem drawXorsSpriteAndFlagsCollision : Obligations.DrawXorsSpriteAndFlagsCollision :=
  fun x y n s => ⟨s.drawn x y n, execDrw_eq s x y n, fun _ _ => drawn_pixel s x y n,
    (drawn_vf_eq_one_iff s x y n).mpr, drawn_vf_eq_zero_of_no_hit s x y n,
    (advance_moved _).of_pc_eq rfl, exec_keeps (execDrw_eq s x y n)⟩

/-- Settles O24: the second draw lays the same bits, so each pixel is flipped twice or not at all,
and a set bit meets a set pixel where the first draw met a clear one. -/
theorem drawTwiceRestoresFramebuffer : Obligations.DrawTwiceRestoresFramebuffer := by
  intro x y n s
  refine ⟨s.drawn x y n, execDrw_eq s x y n, fun t' hfb hi hmem hvx hvy => ?_⟩
  have hbit : t'.drwBit x y n = s.drwBit x y n := drwBit_congr n hi hmem hvx hvy
  have hfirst {px py : Nat} (hx : px < 64) (hy : py < 32) :
      t'.pixel px py = (s.pixel px py ^^ s.drwBit x y n px py) :=
    (congrArg (FrameBuffer.get · px py) hfb).trans (drawn_pixel s x y n hx hy)
  refine ⟨t'.drawn x y n, execDrw_eq t' x y n, ?framebuffer, ?flag⟩
  case framebuffer =>
    refine fb_ext fun px py hx hy => ?_
    calc (t'.drawn x y n).pixel px py
        = (t'.pixel px py ^^ t'.drwBit x y n px py) := drawn_pixel t' x y n hx hy
      _ = ((s.pixel px py ^^ s.drwBit x y n px py) ^^ s.drwBit x y n px py) := by
        rw [hfirst hx hy, hbit]
      _ = s.pixel px py := by rw [Bool.xor_assoc, Bool.xor_self, Bool.xor_false]
  case flag =>
    rw [drawn_vf_eq_one_iff, hbit]
    refine exists₂_congr fun px py => and_congr_right fun hx => and_congr_right fun hy =>
      and_congr_left fun (hb : s.drwBit x y n px py = true) => ?_
    rw [hfirst hx hy, hb, Bool.xor_true, Bool.not_eq_true']

/-- Settles O22: one write of the clear framebuffer. -/
theorem clearScreenClearsEveryPixel : Obligations.ClearScreenClearsEveryPixel := fun s =>
  ⟨(s.setFB FrameBuffer.clear).advance, rfl, fun px py _ _ => get_clear px py,
    (advance_moved _).of_pc_eq rfl, exec_keeps (i := .cls) rfl⟩

end Sys2Proof.Machine
end

section
/-! SUPPORT. The keypad and timer instructions (44_keypad_timers.md): the key that a register names,
the smallest key down, and the two outcomes of the key wait. -/

namespace Sys2Proof.Machine

/-! ### The keys that the instructions test (R210 to R212) -/

/-- A register names the key of its low nibble (R210, R211). -/
theorem keyOf_toNat (s : State) (x : RegIdx) : (s.keyOf x).toNat = (s.getV x).toNat % 16 :=
  BitVec.toNat_setWidth 4 (s.getV x)

theorem keyByte_toNat (k : KeyIdx) : (keyByte k).toNat = k.toNat :=
  BitVec.toNat_setWidth_of_le (by decide)

/-- The search of the keys goes in rising order. -/
theorem allKeys_rising : allKeys.Pairwise (·.toNat < ·.toNat) := by decide

/-- The search finds the smallest key down: the keys it passes before k are smaller than k. -/
theorem lowestKey_eq_some {s : State} {k : KeyIdx} (hk : s.keyDown k = true)
    (hlow : ∀ j : KeyIdx, j.toNat < k.toNat → s.keyDown j = false) : s.lowestKey = some k := by
  obtain ⟨before, rest, hsplit⟩ := List.append_of_mem (mem_allKeys k)
  have hbefore : ∀ j ∈ before, j.toNat < k.toNat := by
    obtain ⟨-, -, hlt⟩ := List.pairwise_append.mp (hsplit ▸ allKeys_rising)
    exact fun j hj => hlt j hj k List.mem_cons_self
  refine List.find?_eq_some_iff_append.mpr ⟨hk, before, rest, hsplit, fun j hj => ?_⟩
  rw [hlow j (hbefore j hj), Bool.not_false]

/-! ### The two outcomes of the key wait (R212) -/

theorem execLdVxK_hold {s : State} (x : RegIdx) (h : s.lowestKey = none) :
    exec (.ldVxK x) s = .next (s.setWait true) := by
  simp only [exec, execLdVxK, h]

theorem execLdVxK_take {s : State} {k : KeyIdx} (x : RegIdx) (h : s.lowestKey = some k) :
    exec (.ldVxK x) s = .next ((s.setV x (keyByte k)).setWait false).advance := by
  simp only [exec, execLdVxK, h]

/-! ### The statements -/

/-- Settles O9: each skip is a `skipIf` on the key that Vx names, or on its negation. -/
theorem keySkips : Obligations.KeySkips := by
  intro x k s hk
  have hkey : s.keyOf x = k := BitVec.eq_of_toNat_eq ((keyOf_toNat s x).trans hk.symm)
  subst hkey
  exact ⟨skipsWhen_of_skipIf rfl Iff.rfl,
    skipsWhen_of_skipIf rfl (by rw [Bool.not_eq_true'])⟩

/-- Settles O25: each move is one write of a register or of a timer, and `next()`. -/
theorem timerMoves : Obligations.TimerMoves := fun x _ =>
  ⟨writesReg_of_setV rfl,
    ⟨_, rfl, rfl, (advance_moved _).of_pc_eq rfl, exec_keeps (i := .ldDtVx x) rfl⟩,
    ⟨_, rfl, rfl, (advance_moved _).of_pc_eq rfl, exec_keeps (i := .ldStVx x) rfl⟩⟩

/-- Settles O27: the search finds k, so the key wait ends with the byte of k in Vx. -/
theorem keyWaitTakesLowestKey : Obligations.KeyWaitTakesLowestKey := by
  intro x k s hk hlow
  have ht := execLdVxK_take x (lowestKey_eq_some hk hlow)
  refine ⟨_, ht, ?_, rfl, (advance_moved _).of_pc_eq rfl, exec_keeps ht⟩
  rw [advance_getV, setWait_getV, setV_getV_same, keyByte_toNat]

/-- Settles O26: the search finds no key, so the key wait is one write of WAIT. -/
theorem keyWaitHoldsWithNoKey : Obligations.KeyWaitHoldsWithNoKey := fun x s hnone =>
  ⟨_, execLdVxK_hold x ((lowestKey_eq_none_iff s).mpr hnone), rfl, setWait_keeps s true⟩

end Sys2Proof.Machine
end

section
/-! SUPPORT. Faults, the step and the ticks (60_exceptions.md): the two answers to an unknown
opcode, the events, what is left of PC after a step, and the timers after n ticks. -/

namespace Sys2Proof.Machine

/-! ### An unknown opcode under each policy (R236) -/

theorem unknownOpcode_of_skip {s : State} (h : s.cfg.unknownOpcodePolicy = .skip) :
    s.unknownOpcode = s.advance := by
  simp only [State.unknownOpcode, h]

theorem unknownOpcode_of_halt {s : State} (h : s.cfg.unknownOpcodePolicy = .halt) :
    s.unknownOpcode = s.raiseFatal .unknownOpcode := by
  simp only [State.unknownOpcode, h]

/-- An unknown opcode moves PC on or latches the fault, by the policy. -/
theorem unknownOpcode_cases (s : State) :
    s.unknownOpcode = s.advance ∨
    (s.cfg.unknownOpcodePolicy = .halt ∧ s.unknownOpcode = s.raiseFatal .unknownOpcode) := by
  cases h : s.cfg.unknownOpcodePolicy with
  | skip => exact .inl (unknownOpcode_of_skip h)
  | halt => exact .inr ⟨rfl, unknownOpcode_of_halt h⟩

/-! ### The diagnostic event (R236, R251) -/

theorem diagnostic_of_fault {s : State} (h : s.fault ≠ .none) : s.diagnostic = none := if_pos h

section
variable {s : State} {op : Word} (hc : s.CanFetch) (hd : decode s.fetchWord = .unknownOpcode op)
include hc hd

/-- The event carries the fetched word, which is the one the decoder reports (R97). -/
theorem diagnostic_of_skip (hp : s.cfg.unknownOpcodePolicy = .skip) :
    s.diagnostic = some ⟨s.pc, s.fetchWord⟩ := by
  obtain rfl := decode_unknownOpcode hd
  simp [State.diagnostic, hc.1, canFetch_not_odd hc, hd, hp]

theorem diagnostic_of_halt (hp : s.cfg.unknownOpcodePolicy = .halt) : s.diagnostic = none := by
  simp [State.diagnostic, hc.1, canFetch_not_odd hc, hd, hp]

end

/-! ### Every instruction answers a next state (R230) -/

theorem exec_next (i : Instr) (s : State) : ∃ t, exec i s = .next t := by
  cases i with
  | call nnn =>
    by_cases hs : s.sp.val < 16
    · exact ⟨_, execCall_push nnn hs⟩
    · exact ⟨_, execCall_full nnn (by omega)⟩
  | ret =>
    by_cases hs : 0 < s.sp.val
    · exact ⟨_, execRet_pop hs⟩
    · exact ⟨_, execRet_empty (by omega)⟩
  | ldVxK x =>
    cases hk : s.lowestKey with
    | none => exact ⟨_, execLdVxK_hold x hk⟩
    | some k => exact ⟨_, execLdVxK_take x hk⟩
  | _ => exact ⟨_, rfl⟩

/-! ### The parity of PC (R128, R235) -/

theorem PcMoved.even {n : Nat} {s t : State} (h : PcMoved n s t) (hn : n % 2 = 0)
    (hs : s.pc.toNat % 2 = 0) : t.pc.toNat % 2 = 0 := by
  unfold PcMoved at h
  omega

theorem skipIf_moved (s : State) (c : Bool) :
    PcMoved 2 s (s.skipIf c) ∨ PcMoved 4 s (s.skipIf c) := by
  cases c
  · exact .inl (advance_moved s)
  · exact .inr (skipNext_moved s)

/-- An instruction holds PC or moves it on by 2 or 4, or it is a `RET` that pops, or one of the
three that take their target from an operand. -/
theorem exec_pc_moved {i : Instr} {s t : State} (h : exec i s = .next t) :
    t.pc = s.pc ∨ (PcMoved 2 s t ∨ PcMoved 4 s t) ∨ (∃ hs, t = s.returned hs) ∨
      ∃ nnn, i = .jp nnn ∨ i = .call nnn ∨ i = .jpV0 nnn := by
  cases i with
  | jp nnn => exact .inr (.inr (.inr ⟨nnn, .inl rfl⟩))
  | call nnn => exact .inr (.inr (.inr ⟨nnn, .inr (.inl rfl)⟩))
  | jpV0 nnn => exact .inr (.inr (.inr ⟨nnn, .inr (.inr rfl)⟩))
  | ret =>
    obtain ⟨-, rfl⟩ | hs := execRet_cases h
    · exact .inl rfl
    · exact .inr (.inr (.inl hs))
  | ldVxK x =>
    obtain ⟨-, rfl⟩ | ⟨k, -, rfl⟩ := execLdVxK_cases h
    · exact .inl rfl
    · exact .inr (.inl (.inl ((advance_moved _).of_pc_eq rfl)))
  | seImm | sneImm | seReg | sneReg | skp | sknp =>
    cases h
    exact .inr (.inl (skipIf_moved s _))
  | storeRegs x =>
    cases h
    exact .inr (.inl (.inl ((advance_moved _).of_pc_eq (storeBlock_pc s _))))
  | loadRegs x =>
    cases h
    exact .inr (.inl (.inl ((advance_moved _).of_pc_eq (loadBlock_pc s _ x.lt16))))
  | _ => cases h; exact .inr (.inl (.inl ((advance_moved _).of_pc_eq rfl)))

/-- A `RET` leaves PC even: every stack slot is even in a state of the invariant. -/
theorem State.Inv.returned_even {s : State} (hs : s.Inv) (h : 0 < s.sp.val) :
    (s.returned h).pc.toNat % 2 = 0 := by
  have hslot := hs.stackEven ⟨s.sp.val - 1, by omega⟩
  rw [State.returned, setPC_toNat, Nat.mod_mod_of_dvd _ (by decide : 2 ∣ 4096)]
  exact hslot

/-- From an even PC an instruction leaves PC even, or is one of the three jumps. -/
theorem exec_pc_even {i : Instr} {s t : State} (hs : s.Inv)
    (heven : s.pc.toNat % 2 = 0) (h : exec i s = .next t) :
    t.pc.toNat % 2 = 0 ∨ ∃ nnn, i = .jp nnn ∨ i = .call nnn ∨ i = .jpV0 nnn := by
  obtain hpc | (hm | hm) | ⟨hsp, rfl⟩ | hj := exec_pc_moved h
  · exact .inl (hpc ▸ heven)
  · exact .inl (hm.even rfl heven)
  · exact .inl (hm.even rfl heven)
  · exact .inl (hs.returned_even hsp)
  · exact .inr hj

theorem unknownOpcode_pc_even {s : State} (heven : s.pc.toNat % 2 = 0) :
    s.unknownOpcode.pc.toNat % 2 = 0 := by
  obtain hu | ⟨-, hu⟩ := unknownOpcode_cases s <;> rw [hu]
  · exact (advance_moved s).even rfl heven
  · exact heven

/-! ### The timers (R245, R247) -/

theorem countDown_toNat (b : Byte) : (countDown b).toNat = b.toNat - 1 := by
  unfold countDown
  split
  · have hb := b.lt256
    have h1 : (1 : Byte).toNat = 1 := rfl
    rw [toNat_sub_byte, h1]
    omega
  · omega

theorem soundActive_iff (s : State) : s.soundActive = true ↔ 0 < s.st.toNat := decide_eq_true_iff

/-! ### The statements -/

/-- Settles O28: a tick is `countDown` on each timer. -/
theorem tickCountsEachTimerDown : Obligations.TickCountsEachTimerDown := fun s =>
  ⟨countDown_toNat s.dt, countDown_toNat s.st, tickTimers_keeps s⟩

/-- Settles O29, by induction on the number of ticks, each counting down by O28. -/
theorem timersAfterManyTicks : Obligations.TimersAfterManyTicks := by
  intro n s
  induction n with
  | zero => exact ⟨rfl, rfl, Keeps.refl _ s⟩
  | succ n ih =>
    obtain ⟨hdt, hst, hk⟩ := ih
    obtain ⟨hdt', hst', hk'⟩ := tickCountsEachTimerDown (s.tickTimes n)
    refine ⟨?_, ?_, hk.comp hk'⟩
    · rw [State.tickTimes, hdt', hdt, Nat.sub_sub]
    · rw [State.tickTimes, hst', hst, Nat.sub_sub]

/-- Settles O30: the instruction leaves Vx in ST, and after n ticks ST is Vx less n (O29). -/
theorem soundLastsVxTicks : Obligations.SoundLastsVxTicks := by
  intro x n s
  refine ⟨(s.setST (s.getV x)).advance, rfl, ?_⟩
  obtain ⟨-, hst, -⟩ := timersAfterManyTicks n (s.setST (s.getV x)).advance
  rw [soundActive_iff, hst, advance_st, setST_st, Nat.sub_pos_iff_lt]

/-- Settles O31: the two bytes are the fetched word, so the state is about to run i. -/
theorem stepRunsTheDecodedInstruction : Obligations.StepRunsTheDecodedInstruction :=
  fun i _ hf heven hd => ⟨i.fields_wf, step_of_about ⟨⟨hf, heven⟩, hd⟩⟩

/-- Settles O33: the latch is the first check of the step and of the event. -/
theorem latchedFaultStopsTheStep : Obligations.LatchedFaultStopsTheStep := fun _ h =>
  ⟨step_of_fault h, diagnostic_of_fault h⟩

/-- Settles O34: the odd PC is the second check of the step. -/
theorem oddPcFaultsAtFetch : Obligations.OddPcFaultsAtFetch := fun s hf hodd =>
  ⟨_, step_of_odd hf hodd, rfl, raiseFatal_keeps s _⟩

/-- Settles O35: the step is `unknownOpcode`, which each policy makes an advance or a fault. -/
theorem unknownOpcodeFollowsThePolicy : Obligations.UnknownOpcodeFollowsThePolicy := by
  intro op s hc hd
  have hstep := step_of_unknown hc hd
  refine ⟨fun hp => ?skip, fun hp => ?halt⟩
  case skip =>
    rw [unknownOpcode_of_skip hp] at hstep
    exact ⟨⟨_, hstep, advance_moved s, advance_keeps s⟩, diagnostic_of_skip hc hd hp⟩
  case halt =>
    rw [unknownOpcode_of_halt hp] at hstep
    exact ⟨⟨_, hstep, rfl, raiseFatal_keeps s _⟩, diagnostic_of_halt hc hd hp⟩

/-- Settles O36: a step is an instruction's meaning or answers a next state by itself. -/
theorem everyStepHasANextState : Obligations.EveryStepHasANextState := by
  refine ⟨exec_next, fun s => ?_⟩
  obtain ⟨-, hs⟩ | ⟨-, -, hs⟩ | ⟨i, -, hs⟩ | ⟨op, -, -, hs⟩ := step_cases s
  · exact ⟨_, hs⟩
  · exact ⟨_, hs⟩
  · rw [hs]
    exact exec_next i s
  · exact ⟨_, hs⟩

/-- Settles O37: each branch of the step that changes FAULT is a `raiseFatal` under its cause's
condition, and the latch leaves that condition true. -/
theorem faultsArePrecise : Obligations.FaultsArePrecise := by
  intro s t h hp
  obtain ⟨-, hs⟩ | ⟨hf, hodd, hs⟩ | ⟨i, hi, hs⟩ | ⟨op, hc, hd, hs⟩ := step_cases s
    <;> rw [hs] at h
  · cases h
    exact absurd rfl hp
  · cases h
    exact ⟨hf, raiseFatal_keeps s _, hodd⟩
  · obtain hf | ⟨rfl, hsp, rfl⟩ | ⟨nnn, rfl, hsp, rfl⟩ := exec_fault_cases h
    · exact absurd hf hp
    · exact ⟨hi.1.1, raiseFatal_keeps s _, hsp, hi.1.2, hi.2⟩
    · exact ⟨hi.1.1, raiseFatal_keeps s _, hsp, hi.1.2, nnn, hi.2⟩
  · cases h
    obtain hu | ⟨hpol, hu⟩ := unknownOpcode_cases s <;> rw [hu] at hp ⊢
    · exact absurd (advance_fault s) hp
    · exact ⟨hc.1, raiseFatal_keeps s _, hpol, hc.2, op, hd⟩

/-- Settles O40: of the four things a step can be, only an instruction that is one of the three
jumps leaves PC odd. -/
theorem oddPcComesFromAJump : Obligations.OddPcComesFromAJump := by
  intro s t hinv h heven hodd
  obtain ⟨-, hs⟩ | ⟨-, hodd', -⟩ | ⟨i, hi, hs⟩ | ⟨op, -, -, hs⟩ := step_cases s
  · cases hs.symm.trans h
    omega
  · omega
  · obtain heven' | ⟨nnn, rfl | rfl | rfl⟩ := exec_pc_even hinv heven (hs.symm.trans h)
    · omega
    · exact ⟨nnn, .inl hi⟩
    · exact ⟨nnn, .inr (.inl hi)⟩
    · exact ⟨nnn, .inr (.inr hi)⟩
  · cases hs.symm.trans h
    have := unknownOpcode_pc_even heven
    omega

end Sys2Proof.Machine
end

section
/-! SUPPORT. The host's operations and their histories (70_reset_and_hazards.md): the two answers of
`load`, the invariant kept by every operation, a tick that commutes with a step, the idle state. -/

namespace Sys2Proof.Machine

/-! ### The two answers of `load` (R271, R272) -/

section
variable {s : State} {rom : List Byte}

theorem load_of_fits (h : rom.length ≤ 3584) :
    s.load rom = .ok (s.hostReset.copyBytes 0x200 rom) := if_neg (Nat.not_lt.mpr h)

theorem load_of_oversized (h : 3584 < rom.length) : s.load rom = .error .romTooLarge := if_pos h

theorem perform_load_of_fits (h : rom.length ≤ 3584) :
    s.perform (.load rom) = .next (s.hostReset.copyBytes 0x200 rom) := by
  simp only [State.perform, load_of_fits h]

theorem perform_load_of_oversized (h : 3584 < rom.length) : s.perform (.load rom) = .next s := by
  simp only [State.perform, load_of_oversized h]

end

/-! ### The invariant is kept by every operation (R280) -/

/-- The invariant does not speak of the timers. -/
theorem State.Inv.tickTimers {s : State} (hs : s.Inv) : s.tickTimers.Inv :=
  ⟨hs.memory, hs.pcRange, hs.stackRange, hs.stackEven, hs.waiting, hs.faulted⟩

/-- The invariant does not speak of the keypad. -/
theorem State.Inv.setKeys {s : State} (k : Vector Bool 16) (hs : s.Inv) : (s.setKeys k).Inv :=
  ⟨hs.memory, hs.pcRange, hs.stackRange, hs.stackEven, hs.waiting, hs.faulted⟩

/-- A host's reset is the reset state but for the draw count, of which the invariant does not speak
(R270). -/
theorem hostReset_inv (s : State) : s.hostReset.Inv :=
  have h := invariantHoldsAtReset s.cfg
  ⟨h.memory, h.pcRange, h.stackRange, h.stackEven, h.waiting, h.faulted⟩

/-- A ROM copy into a running state that does not wait keeps the invariant; WAIT and FAULT matter
because what they say of the word at PC need not hold of the copied bytes. -/
theorem State.Inv.copyBytes {s : State} (a : Nat) (rom : List Byte) (hs : s.Inv)
    (hw : s.wait = false) (hf : s.fault = .none) : (s.copyBytes a rom).Inv := by
  induction rom generalizing s a with
  | nil => exact hs
  | cons b rest ih =>
    have hstore : (s.writeByte a b).Inv :=
      ⟨writeByte_wf a b hs.memory, hs.pcRange, hs.stackRange, hs.stackEven,
        fun h => absurd (hw.symm.trans h) nofun, faultExplained_of_none hf⟩
    exact ih (a + 1) hstore hw hf

/-- Every operation answers a next state, and keeps the invariant. -/
theorem State.Inv.perform {s : State} (hs : s.Inv) (op : Operation) :
    ∃ t, s.perform op = .next t ∧ t.Inv := by
  cases op with
  | reset => exact ⟨_, rfl, hostReset_inv s⟩
  | load rom =>
    by_cases h : rom.length ≤ 3584
    · exact ⟨_, perform_load_of_fits h, (hostReset_inv s).copyBytes _ _ rfl rfl⟩
    · exact ⟨s, perform_load_of_oversized (Nat.not_le.mp h), hs⟩
  | step =>
    obtain ⟨t, ht⟩ := everyStepHasANextState.2 s
    exact ⟨t, ht, invariantIsKeptByEveryStep s t hs ht⟩
  | tickTimers => exact ⟨_, rfl, hs.tickTimers⟩
  | setKeys k => exact ⟨_, rfl, hs.setKeys k⟩

theorem performAll_cons {s t : State} {op : Operation} (h : s.perform op = .next t)
    (rest : List Operation) : s.performAll (op :: rest) = t.performAll rest := by
  simp only [State.performAll, h]

/-! ### A tick before or after an instruction (R280, R290) -/

section
variable (s : State)

theorem skipIf_tickTimers (c : Bool) : s.tickTimers.skipIf c = (s.skipIf c).tickTimers := by
  cases c
  · rfl
  · rfl

theorem unknownOpcode_tickTimers : s.tickTimers.unknownOpcode = s.unknownOpcode.tickTimers := by
  simp only [State.unknownOpcode, tickTimers_cfg]
  cases s.cfg.unknownOpcodePolicy
  · rfl
  · rfl

theorem storeBlock_tickTimers (n : Nat) :
    s.tickTimers.storeBlock n = (s.storeBlock n).tickTimers := by
  induction n with
  | zero => rfl
  | succ n ih => rw [State.storeBlock, ih]; rfl

theorem loadBlock_tickTimers (n : Nat) :
    s.tickTimers.loadBlock n = (s.loadBlock n).tickTimers := by
  induction n with
  | zero => rfl
  | succ n ih => rw [State.loadBlock, ih]; rfl

theorem blit_tickTimers (x y : Byte) (n : Nibble) : s.tickTimers.blit x y n = s.blit x y n := by
  unfold State.blit
  induction n.toNat with
  | zero => rfl
  | succ m ih => rw [State.drawRows, ih]; rfl

end

/-- An instruction that reads no timer and writes none commutes with a tick. -/
theorem exec_tickTimers {i : Instr} {s t : State} (h : exec i s = .next t)
    (hi : ¬ i.usesTimers) : exec i s.tickTimers = .next t.tickTimers := by
  cases i with
  | ldVxDt | ldDtVx | ldStVx => exact absurd trivial hi
  | seImm | sneImm | seReg | sneReg | skp | sknp =>
    cases h
    exact congrArg Host.Outcome.next (skipIf_tickTimers s _)
  | call nnn =>
    obtain ⟨hs, rfl⟩ | ⟨hs, rfl⟩ := execCall_cases h
    · exact execCall_full (s := s.tickTimers) nnn hs
    · exact execCall_push (s := s.tickTimers) nnn hs
  | ret =>
    obtain ⟨hs, rfl⟩ | ⟨hs, rfl⟩ := execRet_cases h
    · exact execRet_empty (s := s.tickTimers) hs
    · exact execRet_pop (s := s.tickTimers) hs
  | ldVxK x =>
    obtain ⟨hk, rfl⟩ | ⟨k, hk, rfl⟩ := execLdVxK_cases h
    · exact execLdVxK_hold (s := s.tickTimers) x hk
    · exact execLdVxK_take (s := s.tickTimers) x hk
  | drw x y n =>
    cases h
    simp only [exec, execDrw, blit_tickTimers, tickTimers_getV]
    rfl
  | storeRegs x =>
    cases h
    rw [execStoreRegs_eq, storeBlock_tickTimers]
    rfl
  | loadRegs x =>
    cases h
    simp only [exec, execLoadRegs, loadBlock_tickTimers]
    rfl
  | _ => cases h; rfl

/-! ### A jump to its own address (R284) -/

/-- A jump to the address that PC holds leaves the whole state as it is: an address is below 4096,
so the store to PC reduces nothing (R23). -/
theorem setPC_of_eq_pc {s : State} {nnn : Addr} (h : nnn.toNat = s.pc.toNat) :
    s.setPC nnn.toNat = s := by
  have hpc : BitVec.ofNat 16 (nnn.toNat % 4096) = s.pc := by
    rw [Nat.mod_eq_of_lt nnn.lt4096, h, BitVec.ofNat_toNat, BitVec.setWidth_eq]
  rw [State.setPC, hpc]

/-! ### The statements -/

/-- Settles O48, by induction on the list of operations, each kept by `State.Inv.perform`. -/
theorem invariantIsKeptByEveryHistory : Obligations.InvariantIsKeptByEveryHistory := by
  intro ops
  induction ops with
  | nil => exact fun s hs => ⟨s, rfl, hs⟩
  | cons op rest ih =>
    intro s hs
    obtain ⟨t, ht, hti⟩ := hs.perform op
    rw [performAll_cons ht]
    exact ih t hti

/-- Settles O42: the step runs the jump, which stores to PC the address that PC holds. -/
theorem idleStateStays : Obligations.IdleStateStays := by
  intro s hidle
  obtain ⟨hf, heven, nnn, hd, hpc⟩ := hidle
  have ha : s.About (.jp nnn) := ⟨⟨hf, heven⟩, hd⟩
  calc step s = exec (.jp nnn) s := step_of_about ha
    _ = .next (s.setPC nnn.toNat) := rfl
    _ = .next s := by rw [setPC_of_eq_pc hpc]

/-- Settles O45: a tick changes nothing that the step branches on, and each branch commutes with
it. -/
theorem tickCommutesWithStep : Obligations.TickCommutesWithStep := by
  intro s t h hi
  obtain ⟨hf, ht⟩ | ⟨hf, hodd, ht⟩ | ⟨i, ha, ht⟩ | ⟨op, hc, hd, ht⟩ := step_cases s
  · cases ht.symm.trans h
    exact step_of_fault (s := s.tickTimers) hf
  · cases ht.symm.trans h
    exact step_of_odd (s := s.tickTimers) hf hodd
  · have ha' : s.tickTimers.About i := ha
    rw [step_of_about ha']
    exact exec_tickTimers (ht.symm.trans h) (hi i ha)
  · cases ht.symm.trans h
    rw [← unknownOpcode_tickTimers]
    exact step_of_unknown (s := s.tickTimers) hc hd

/-- Settles O58: `load` is the reset followed by the ROM copy, which ends at 0xFFF at the latest and
so does not wrap. -/
theorem loadCopiesTheRom : Obligations.LoadCopiesTheRom := by
  intro rom s hlen
  have hend : 0x200 + rom.length ≤ 4096 := by omega
  exact ⟨_, perform_load_of_fits hlen, fun j hj => copyBytes_readByte rom _ _ j hend hj,
    copyBytes_keeps rom _ _ hend⟩

/-- Settles O56: the latch is the vector given, and the frame of `set_keys` is the keys. -/
theorem setKeysReplacesTheLatch : Obligations.SetKeysReplacesTheLatch := fun k s =>
  ⟨fun _ => rfl, setKeys_keeps s k⟩

/-- Settles O59: the length is the first check of `load`. -/
theorem oversizedRomIsRejected : Obligations.OversizedRomIsRejected := fun _ _ h =>
  ⟨load_of_oversized h, perform_load_of_oversized h⟩

end Sys2Proof.Machine
end
